-- ==== Sys2Proof/Word.lean ====
section
/-! DEFINITION. The value types of the engine (00_scope.md R5, R8): all unsigned, all of fixed width. -/

namespace Sys2Proof

/-- A Word: a 32-bit unsigned value (R5, R8). -/
abbrev Word := BitVec 32

/-- A Byte: an 8-bit unsigned value (R5, R8). -/
abbrev Byte := BitVec 8

/-- A Len64: a 64-bit unsigned value (R8). -/
abbrev Len64 := BitVec 64

end Sys2Proof
end

