-- ==== Sys2Proof/Syntax.lean ====
section
/-! DEFINITION. The instructions: one constructor per row of spec/opcode_table.json. The 17 HOSTTXN rows are the host's
register transactions (30_encoding.md R58, R61), the 5 SEQ rows the sequencer's micro-steps (R59). -/

namespace Sys2Proof

/-- An instruction. `n` is a register index IDX, `i` a digest word index IDX[2:0] (R60), `data` the field DATA of a
write. A read carries no DATA: the decoder drops it, since the read ignores it (R58, R62; log 4). -/
inductive Instr where
  -- HOSTTXN, RW = 0
  | rdCtrl
  | rdStatus
  | rdLenLo
  | rdLenHi
  | rdRsvdA (n : BitVec 6)
  | rdDigest (i : BitVec 3)
  | rdRsvdB (n : BitVec 6)
  | rdRsvdC (n : BitVec 6)
  -- HOSTTXN, RW = 1
  | wrCtrlStart (data : Word)
  | wrCtrlNop (data : Word)
  | wrStatus (data : Word)
  | wrLenLo (data : Word)
  | wrLenHi (data : Word)
  | wrRsvdA (n : BitVec 6) (data : Word)
  | wrDigest (i : BitVec 3) (data : Word)
  | wrRsvdB (n : BitVec 6) (data : Word)
  | wrRsvdC (n : BitVec 6) (data : Word)
  -- SEQ
  | idle
  | load
  | expand
  | round
  | accum
deriving DecidableEq, Repr

/-- The row's mnemonic in spec/opcode_table.json. -/
def Instr.mnemonic : Instr → String
  | .rdCtrl => "RD_CTRL"
  | .rdStatus => "RD_STATUS"
  | .rdLenLo => "RD_LEN_LO"
  | .rdLenHi => "RD_LEN_HI"
  | .rdRsvdA _ => "RD_RSVD_A"
  | .rdDigest _ => "RD_DIGEST"
  | .rdRsvdB _ => "RD_RSVD_B"
  | .rdRsvdC _ => "RD_RSVD_C"
  | .wrCtrlStart _ => "WR_CTRL_START"
  | .wrCtrlNop _ => "WR_CTRL_NOP"
  | .wrStatus _ => "WR_STATUS"
  | .wrLenLo _ => "WR_LEN_LO"
  | .wrLenHi _ => "WR_LEN_HI"
  | .wrRsvdA _ _ => "WR_RSVD_A"
  | .wrDigest _ _ => "WR_DIGEST"
  | .wrRsvdB _ _ => "WR_RSVD_B"
  | .wrRsvdC _ _ => "WR_RSVD_C"
  | .idle => "IDLE"
  | .load => "LOAD"
  | .expand => "EXPAND"
  | .round => "ROUND"
  | .accum => "ACCUM"

/-- A read transaction (RW = 0). -/
def Instr.isRead : Instr → Bool
  | .rdCtrl | .rdStatus | .rdLenLo | .rdLenHi | .rdRsvdA _ | .rdDigest _ | .rdRsvdB _ | .rdRsvdC _ => true
  | .wrCtrlStart _ | .wrCtrlNop _ | .wrStatus _ | .wrLenLo _ | .wrLenHi _ | .wrRsvdA _ _ | .wrDigest _ _
  | .wrRsvdB _ _ | .wrRsvdC _ _ | .idle | .load | .expand | .round | .accum => false

/-- A host transaction (format HOSTTXN); the others are the engine's micro-steps (format SEQ). -/
def Instr.isHost : Instr → Bool
  | .rdCtrl | .rdStatus | .rdLenLo | .rdLenHi | .rdRsvdA _ | .rdDigest _ | .rdRsvdB _ | .rdRsvdC _ => true
  | .wrCtrlStart _ | .wrCtrlNop _ | .wrStatus _ | .wrLenLo _ | .wrLenHi _ | .wrRsvdA _ _ | .wrDigest _ _
  | .wrRsvdB _ _ | .wrRsvdC _ _ => true
  | .idle | .load | .expand | .round | .accum => false

end Sys2Proof
end

