-- ==== Sys2Proof/WellFormed.lean ====
section
/-! DEFINITION. Which terms of Instr stand for a word of the encoding (30_encoding.md R61): the index ranges of the three
reserved rows, and the bit DATA[0] that tells the two WR_CTRL rows apart. -/

namespace Sys2Proof

/-- The reserved indices of the rows RD_RSVD_A and WR_RSVD_A (R61). -/
def rsvdA (n : BitVec 6) : Bool := 4 ≤ n.toNat && n.toNat ≤ 7

/-- The reserved indices of the rows RD_RSVD_B and WR_RSVD_B (R61). -/
def rsvdB (n : BitVec 6) : Bool := 16 ≤ n.toNat && n.toNat ≤ 31

/-- The reserved indices of the rows RD_RSVD_C and WR_RSVD_C (R61). -/
def rsvdC (n : BitVec 6) : Bool := 32 ≤ n.toNat

/-- The operands are ones the encoding of the row admits. -/
def Instr.wf : Instr → Bool
  | .rdRsvdA n => rsvdA n
  | .rdRsvdB n => rsvdB n
  | .rdRsvdC n => rsvdC n
  | .wrRsvdA n _ => rsvdA n
  | .wrRsvdB n _ => rsvdB n
  | .wrRsvdC n _ => rsvdC n
  | .wrCtrlStart data => data.getLsbD 0
  | .wrCtrlNop data => !data.getLsbD 0
  | .rdCtrl | .rdStatus | .rdLenLo | .rdLenHi | .rdDigest _ => true
  | .wrStatus _ | .wrLenLo _ | .wrLenHi _ | .wrDigest _ _ => true
  | .idle | .load | .expand | .round | .accum => true

end Sys2Proof
end

