-- ==== Sys2Proof/Decode.lean ====
section
/-! DEFINITION. The two formats (30_encoding.md R57), the decoder, the encoder and the opcode table. -/

namespace Sys2Proof

/-- One encoded instruction in one of the two formats of R57. -/
inductive Code where
  /-- HOSTTXN, 39 bits: RW = bit 38, IDX = bits 37:32, DATA = bits 31:0 (R58). -/
  | hosttxn (w : BitVec 39)
  /-- SEQ, the 3-bit phase code (R59). -/
  | seq (c : BitVec 3)
deriving DecidableEq, Repr

/-- Why a code is refused: only the SEQ codes 5, 6 and 7 are (R59, R62). -/
inductive DecodeError where
  | unreachablePhase (code : BitVec 3)
deriving DecidableEq, Repr

/-- Why a list of bytes is refused (log 3). -/
inductive BytesError where
  | wrongLength (n : Nat)
  | strayBits
  | badCode (e : DecodeError)
deriving DecidableEq, Repr

/-- KEY = bits 38:32 (R58). -/
def hostKey (w : BitVec 39) : BitVec 7 := w.extractLsb' 32 7

/-- RW = bit 38 (R58). -/
def hostRw (w : BitVec 39) : Bool := w.getLsbD 38

/-- IDX = bits 37:32 (R58). -/
def hostIdx (w : BitVec 39) : BitVec 6 := w.extractLsb' 32 6

/-- DATA = bits 31:0 (R58). -/
def hostData (w : BitVec 39) : Word := w.extractLsb' 0 32

/-- IDX[2:0], the digest word index (R60). -/
def digestIndex (idx : BitVec 6) : BitVec 3 := idx.extractLsb' 0 3

/-- The read rows of R61, keys 0x00 to 0x3F. -/
def decodeRead (idx : BitVec 6) : Instr :=
  if idx = 0 then .rdCtrl
  else if idx = 1 then .rdStatus
  else if idx = 2 then .rdLenLo
  else if idx = 3 then .rdLenHi
  else if idx.toNat < 8 then .rdRsvdA idx
  else if idx.toNat < 16 then .rdDigest (digestIndex idx)
  else if idx.toNat < 32 then .rdRsvdB idx
  else .rdRsvdC idx

/-- The write rows of R61, keys 0x40 to 0x7F. -/
def decodeWrite (idx : BitVec 6) (data : Word) : Instr :=
  if idx = 0 then (if data.getLsbD 0 then .wrCtrlStart data else .wrCtrlNop data)
  else if idx = 1 then .wrStatus data
  else if idx = 2 then .wrLenLo data
  else if idx = 3 then .wrLenHi data
  else if idx.toNat < 8 then .wrRsvdA idx data
  else if idx.toNat < 16 then .wrDigest (digestIndex idx) data
  else if idx.toNat < 32 then .wrRsvdB idx data
  else .wrRsvdC idx data

/-- Every 39-bit value decodes (R62). -/
def decodeHost (w : BitVec 39) : Instr :=
  if hostRw w then decodeWrite (hostIdx w) (hostData w) else decodeRead (hostIdx w)

/-- The SEQ map of R61; codes 5 to 7 are unreachable (R59). -/
def decodeSeq (c : BitVec 3) : Except DecodeError Instr :=
  if c = 0 then .ok .idle
  else if c = 1 then .ok .load
  else if c = 2 then .ok .expand
  else if c = 3 then .ok .round
  else if c = 4 then .ok .accum
  else .error (.unreachablePhase c)

/-- The decoder. -/
def decode : Code → Except DecodeError Instr
  | .hosttxn w => .ok (decodeHost w)
  | .seq c => decodeSeq c

/-- The number whose byte k is the k-th of the list, the least significant first (log 3). -/
def bytesToNat : List Byte → Nat
  | [] => 0
  | b :: bs => b.toNat + 256 * bytesToNat bs

/-- A decoded code as a result over bytes. -/
def liftCode (r : Except DecodeError Instr) : Except BytesError Instr :=
  match r with
  | .ok i => .ok i
  | .error e => .error (.badCode e)

/-- The decoder on any bytes: one byte is a SEQ code, five bytes are a HOSTTXN value; a set bit above the format's
width and every other length are refused by name (log 3). -/
def decodeBytes (bs : List Byte) : Except BytesError Instr :=
  if bs.length = 1 then
    (if bytesToNat bs < 2 ^ 3 then liftCode (decode (.seq (BitVec.ofNat 3 (bytesToNat bs)))) else .error .strayBits)
  else if bs.length = 5 then
    (if bytesToNat bs < 2 ^ 39 then liftCode (decode (.hosttxn (BitVec.ofNat 39 (bytesToNat bs)))) else .error .strayBits)
  else .error (.wrongLength bs.length)

/-- Byte k of a number, the least significant first (log 3). -/
def byteAt (w k : Nat) : Byte := BitVec.ofNat 8 (w / 256 ^ k)

/-- The bytes a row's word is given to the decoder in: one for a SEQ row, five for a HOSTTXN row; the width tells the
two apart, since SEQ has 3 bits and HOSTTXN 39 (log 3). -/
def tableBytes (nbits w : Nat) : Option (List Byte) :=
  if nbits ≤ 32 then (if w < 2 ^ 8 then some [byteAt w 0] else none)
  else (if w < 2 ^ 40 then some [byteAt w 0, byteAt w 1, byteAt w 2, byteAt w 3, byteAt w 4] else none)

/-- The instruction the decoder reads from a word numbered as spec/opcode_table.json numbers it. -/
def decodeTableWord (nbits w : Nat) : Option Instr :=
  match tableBytes nbits w with
  | none => none
  | some bs =>
    match decodeBytes bs with
    | .ok i => some i
    | .error _ => none

/-- The HOSTTXN value with these fields, (RW << 38) | (IDX << 32) | DATA (R58). -/
def hostWord (rw : Bool) (idx : BitVec 6) (data : Word) : BitVec 39 :=
  (BitVec.ofBool rw).setWidth 39 <<< 38 ||| idx.setWidth 39 <<< 32 ||| data.setWidth 39

/-- DIGESTi is index 8 + i (R60, 20_memory.md R46). -/
def digestIdx (i : BitVec 3) : BitVec 6 := 8 + i.setWidth 6

/-- The encoder, from R58, R59 and R61. A read's DATA is 0 (R58). -/
def encode : Instr → Code
  | .rdCtrl => .hosttxn (hostWord false 0 0)
  | .rdStatus => .hosttxn (hostWord false 1 0)
  | .rdLenLo => .hosttxn (hostWord false 2 0)
  | .rdLenHi => .hosttxn (hostWord false 3 0)
  | .rdRsvdA n => .hosttxn (hostWord false n 0)
  | .rdDigest i => .hosttxn (hostWord false (digestIdx i) 0)
  | .rdRsvdB n => .hosttxn (hostWord false n 0)
  | .rdRsvdC n => .hosttxn (hostWord false n 0)
  | .wrCtrlStart data => .hosttxn (hostWord true 0 data)
  | .wrCtrlNop data => .hosttxn (hostWord true 0 data)
  | .wrStatus data => .hosttxn (hostWord true 1 data)
  | .wrLenLo data => .hosttxn (hostWord true 2 data)
  | .wrLenHi data => .hosttxn (hostWord true 3 data)
  | .wrRsvdA n data => .hosttxn (hostWord true n data)
  | .wrDigest i data => .hosttxn (hostWord true (digestIdx i) data)
  | .wrRsvdB n data => .hosttxn (hostWord true n data)
  | .wrRsvdC n data => .hosttxn (hostWord true n data)
  | .idle => .seq 0
  | .load => .seq 1
  | .expand => .seq 2
  | .round => .seq 3
  | .accum => .seq 4

/-- The bytes of a code in the decoder's order (log 3). -/
def codeBytes : Code → List Byte
  | .hosttxn w => [byteAt w.toNat 0, byteAt w.toNat 1, byteAt w.toNat 2, byteAt w.toNat 3, byteAt w.toNat 4]
  | .seq c => [byteAt c.toNat 0]

/-- The canonical form of a HOSTTXN value: a read with DATA = 0 (R58, R62). -/
def canonicalWord (w : BitVec 39) : BitVec 39 :=
  if hostRw w then w else hostWord false (hostIdx w) 0

/-- One HOSTTXN row of spec/opcode_table.json: a word w is the row's exactly when w &&& mask = value. -/
structure HostRow where
  mnemonic : String
  value    : BitVec 39
  mask     : BitVec 39
deriving DecidableEq, Repr

/-- The read rows of spec/opcode_table.json. -/
def readRows : List HostRow :=
  [⟨"RD_CTRL", 0x0000000000, 0x7f00000000⟩, ⟨"RD_STATUS", 0x0100000000, 0x7f00000000⟩,
   ⟨"RD_LEN_LO", 0x0200000000, 0x7f00000000⟩, ⟨"RD_LEN_HI", 0x0300000000, 0x7f00000000⟩,
   ⟨"RD_RSVD_A", 0x0400000000, 0x7c00000000⟩, ⟨"RD_DIGEST", 0x0800000000, 0x7800000000⟩,
   ⟨"RD_RSVD_B", 0x1000000000, 0x7000000000⟩, ⟨"RD_RSVD_C", 0x2000000000, 0x6000000000⟩]

/-- The write rows of spec/opcode_table.json. -/
def writeRows : List HostRow :=
  [⟨"WR_CTRL_START", 0x4000000001, 0x7f00000001⟩, ⟨"WR_CTRL_NOP", 0x4000000000, 0x7f00000001⟩,
   ⟨"WR_STATUS", 0x4100000000, 0x7f00000000⟩, ⟨"WR_LEN_LO", 0x4200000000, 0x7f00000000⟩,
   ⟨"WR_LEN_HI", 0x4300000000, 0x7f00000000⟩, ⟨"WR_RSVD_A", 0x4400000000, 0x7c00000000⟩,
   ⟨"WR_DIGEST", 0x4800000000, 0x7800000000⟩, ⟨"WR_RSVD_B", 0x5000000000, 0x7000000000⟩,
   ⟨"WR_RSVD_C", 0x6000000000, 0x6000000000⟩]

/-- The HOSTTXN rows of spec/opcode_table.json. -/
def hostRows : List HostRow := readRows ++ writeRows

/-- The SEQ rows of spec/opcode_table.json: mnemonic and code. -/
def seqRows : List (String × BitVec 3) :=
  [("IDLE", 0), ("LOAD", 1), ("EXPAND", 2), ("ROUND", 3), ("ACCUM", 4)]

end Sys2Proof
end

