-- ==== Sys2Proof/Machine/WordOps.lean ====
section
/-! DEFINITION. The combinational word operations (40_word_ops.md R66 to R81). All are total; none sets a flag (R81). -/

namespace Sys2Proof.Machine

/-- `add32(a, b)` = (a + b (exact)) mod 2^32 (R67). -/
def add32 (a b : Word) : Word := BitVec.ofNat 32 (a.toNat + b.toNat)

/-- The n-operand sum, a left fold of add32 (R68). -/
def sumWords : List Word → Word
  | [] => 0
  | x :: xs => xs.foldl add32 x

/-- `ROTR(x, n)` = (x >> n) or (x << (32 − n)) (R69). -/
def rotr (x : Word) (n : Nat) : Word := (x >>> n) ||| (x <<< (32 - n))

/-- `x >> n`, the logical right shift (R70). -/
def shr (x : Word) (n : Nat) : Word := x >>> n

/-- `SSIG0(x) = ROTR(x, 7) xor ROTR(x, 18) xor (x >> 3)` (R72). -/
def ssig0 (x : Word) : Word := rotr x 7 ^^^ rotr x 18 ^^^ shr x 3

/-- `SSIG1(x) = ROTR(x, 17) xor ROTR(x, 19) xor (x >> 10)` (R73). -/
def ssig1 (x : Word) : Word := rotr x 17 ^^^ rotr x 19 ^^^ shr x 10

/-- `BSIG0(x) = ROTR(x, 2) xor ROTR(x, 13) xor ROTR(x, 22)` (R74). -/
def bsig0 (x : Word) : Word := rotr x 2 ^^^ rotr x 13 ^^^ rotr x 22

/-- `BSIG1(x) = ROTR(x, 6) xor ROTR(x, 11) xor ROTR(x, 25)` (R75). -/
def bsig1 (x : Word) : Word := rotr x 6 ^^^ rotr x 11 ^^^ rotr x 25

/-- `CH(x, y, z) = (x and y) xor ((not x) and z)` (R76). -/
def ch (x y z : Word) : Word := (x &&& y) ^^^ (~~~x &&& z)

/-- `MAJ(x, y, z) = (x and y) xor (x and z) xor (y and z)` (R77). -/
def maj (x y z : Word) : Word := (x &&& y) ^^^ (x &&& z) ^^^ (y &&& z)

/-- `BE32(b0, b1, b2, b3) = (b0 << 24) or (b1 << 16) or (b2 << 8) or b3`, each byte zero-extended first (R78). -/
def be32 (b0 b1 b2 b3 : Byte) : Word :=
  b0.setWidth 32 <<< 24 ||| b1.setWidth 32 <<< 16 ||| b2.setWidth 32 <<< 8 ||| b3.setWidth 32

/-- `BYTES32(w)[j] = (w >> (8 × (3 − j))) and 0xFF` (R79). -/
def bytes32 (w : Word) (j : Nat) : Byte := (w >>> (8 * (3 - j))).setWidth 8

/-- `BYTES64(v)[i] = (v >> (8 × (7 − i))) and 0xFF` (R80). -/
def bytes64 (v : Len64) (i : Nat) : Byte := (v >>> (8 * (7 - i))).setWidth 8

end Sys2Proof.Machine
end

