-- ==== Sys2Proof/Machine/Schedule.lean ====
section
/-! DEFINITION. The message scheduler (42_schedule.md R95 to R99). -/

namespace Sys2Proof.Machine

/-- Word i of a block, from its bytes 4i to 4i + 3, big-endian (R95). -/
def blockWord (B : Vector Byte 64) (i : Nat) (h : i < 16) : Word :=
  be32 B[4 * i] B[4 * i + 1] B[4 * i + 2] B[4 * i + 3]

/-- W with W[0..15] decoded from the block (R95) and W[16..63] as they were. -/
def decodeBlock (B : Vector Byte 64) (W : Vector Word 64) : Vector Word 64 :=
  Vector.ofFn fun i => if h : i.val < 16 then blockWord B i.val h else W[i.val]

/-- `SSIG1(W[t-2]) + W[t-7] + SSIG0(W[t-15]) + W[t-16]`, for 16 ≤ t ≤ 63 (R96). -/
def scheduleWord (W : Vector Word 64) (t : Nat) (lo : 16 ≤ t) (hi : t < 64) : Word :=
  sumWords [ssig1 (W[t - 2]'(by omega)), W[t - 7]'(by omega), ssig0 (W[t - 15]'(by omega)), W[t - 16]'(by omega)]

/-- W with W[t] computed (R96). -/
def expandWord (W : Vector Word 64) (t : Nat) (lo : 16 ≤ t) (hi : t < 64) : Vector Word 64 :=
  W.set t (scheduleWord W t lo hi)

/-- The first k of the 48 expansions, in increasing t from 16 (R98). -/
def expandFirst (W : Vector Word 64) : Nat → Vector Word 64
  | 0 => W
  | k + 1 =>
    if h : 16 + k < 64 then expandWord (expandFirst W k) (16 + k) (by omega) h else expandFirst W k

/-- The whole schedule of a block: W[0..15] decoded, W[16..63] expanded (43_compression.md R107). -/
def schedule (B : Vector Byte 64) : Vector Word 64 :=
  expandFirst (decodeBlock B (Vector.replicate 64 0)) 48

/-- The 16-word window an implementation may keep instead (R99): at round t it holds W[t] to W[t + 15], the first one
the word round t reads. -/
def windowInit (B : Vector Byte 64) : Vector Word 16 :=
  Vector.ofFn fun i => blockWord B i.val i.isLt

/-- One step of the window: W[t + 16] is computed from the window's words 14, 9, 1 and 0, and W[t] is discarded
(R96, R99). -/
def windowNext (V : Vector Word 16) : Vector Word 16 :=
  Vector.ofFn fun i =>
    if h : i.val < 15 then V[i.val + 1] else sumWords [ssig1 V[14], V[9], ssig0 V[1], V[0]]

end Sys2Proof.Machine
end

