-- ==== Sys2Proof/Config.lean ====
section
/-! DEFINITION. What is fixed for one machine (00_scope.md R6) and the free values: constants without a body, which
no proof can evaluate. Each free value is applied to the instance that draws it (log 25) and to the counter `draws` of
State, or to the operands it depends on. -/

namespace Sys2Proof

/-- One piece of MSG_MAP: `length` message offsets from `offset` on lie at the locations from `location` on. -/
structure MsgPiece where
  offset   : Nat
  location : Nat
  length   : Nat
deriving DecidableEq, Repr

/-- MSG_MAP (R6, 20_memory.md R39): where each message offset lies in the platform's memory, as a list of pieces, the
first that holds an offset deciding. Every map of the offsets below a bound is such a list (log 12). -/
abbrev MsgMap := List MsgPiece

/-- `MSG_MAP(i)` (20_memory.md R39). An offset in no piece is its own location (log 12). -/
def MsgMap.location : MsgMap → Nat → Nat
  | [], i => i
  | p :: m, i => if p.offset ≤ i ∧ i < p.offset + p.length then p.location + (i - p.offset) else MsgMap.location m i

/-- The map is injective on the offsets below n (R6: "any injective map of [0, mlen)"). -/
def MsgMap.InjectiveBelow (m : MsgMap) (n : Nat) : Prop :=
  ∀ i j, i < n → j < n → m.location i = m.location j → i = j

/-- The parameters of R6 a model of one engine takes as arguments; no step writes them (log 10, log 11, log 12).
`maxLen` is MAX_LEN, whose legal values 0 ≤ MAX_LEN ≤ 2^61 − 1 are exactly this type.
`regBase` is REG_BASE, the platform address of register index 0.
`msgMap` is MSG_MAP. -/
structure Params where
  maxLen  : Fin (2 ^ 61)
  regBase : Nat
  msgMap  : MsgMap
deriving DecidableEq, Repr

/-- The legal values of R6: REG_BASE is any 4-byte-aligned platform address, and MSG_MAP is injective on [0, mlen) for
every mlen that MAX_LEN admits. -/
def Params.Legal (p : Params) : Prop :=
  p.regBase % 4 = 0 ∧ p.msgMap.InjectiveBelow p.maxLen.val

/-- MAX_LEN's default of R6, 2^61 − 1. REG_BASE and MSG_MAP have no default in the spec; DESIGN CHOICE 0 (log 11) and
every offset at itself (log 12). -/
def Params.default : Params :=
  { maxLen := ⟨2 ^ 61 - 1, by omega⟩, regBase := 0, msgMap := [] }

/-- NUM_ENGINES (R6), whose legal values are 1 and above (log 13). -/
abbrev NumEngines := { n : Nat // 1 ≤ n }

/-- NUM_ENGINES' default of R6. -/
def NumEngines.default : NumEngines := ⟨1, Nat.le_refl 1⟩

/-- The Word a read of DIGESTi returns while DONE = 0 (10_state.md R32, 45_host_interface.md R119): a fresh draw of the
instance, one for each value of the counter (log 6). -/
opaque Config.digestDraw : Nat → Nat → Word

/-- The byte a location of an instance's memory holds that nothing has written (log 14). -/
opaque Config.unwrittenByte : Nat → Nat → Byte

/-- Which of the values a racing message byte held is used (20_memory.md R51): by instance, draw and offset (log 15). -/
opaque Config.raceChoice : Nat → Nat → Nat → Nat

/-- H[i] after a reset step (10_state.md R37: unspecified), by instance and draw (log 7). -/
opaque Config.resetHash : Nat → Nat → Fin 8 → Word

/-- WS[i] after a reset step (R37), by instance and draw (log 7). -/
opaque Config.resetWorking : Nat → Nat → Fin 8 → Word

/-- W[i] after a reset step (R37), by instance and draw (log 7). -/
opaque Config.resetSchedule : Nat → Nat → Fin 64 → Word

/-- t after a reset step (R37), by instance and draw (log 7). -/
opaque Config.resetT : Nat → Nat → BitVec 6

/-- blk after a reset step (R37), by instance and draw (log 7). -/
opaque Config.resetBlk : Nat → Nat → Len64

/-- nblk after a reset step (R37), by instance and draw (log 7). -/
opaque Config.resetNblk : Nat → Nat → Len64

/-- mlen after a reset step (R37), by instance and draw (log 7). -/
opaque Config.resetMlen : Nat → Nat → Len64

end Sys2Proof
end

