-- ==== Sys2Proof/Machine/State.lean ====
section
/-! DEFINITION. The state (10_state.md R13), the events that say which agent moves next (00_scope.md R11), and the reasons
a step can stop. All of it is plain data. -/

namespace Sys2Proof.Machine

/-- The working state a..h, also WS[0]..WS[7] (10_state.md R15). -/
structure WorkingState where
  a : Word
  b : Word
  c : Word
  d : Word
  e : Word
  f : Word
  g : Word
  h : Word
deriving DecidableEq, Repr

/-- The memory the message lies in: bytes by location, in rising order of locations, each location at most once. Where
message offset i lies is MSG_MAP(i) (20_memory.md R39; log 12). A location it does not list has no value of its own;
what is read there is a free value (log 14). -/
abbrev Memory := List Host.Cell

/-- One access a platform's bus makes to the register window (20_memory.md R43): byte address, size in bytes, direction
and, for a write, the data. -/
structure BusAccess where
  addr  : Nat
  size  : Nat
  write : Bool
  data  : Word
deriving DecidableEq, Repr

/-- One atomic step of an agent (R11, 20_memory.md R49). -/
inductive Event where
  /-- The host performs the register transaction with this 39-bit encoding (30_encoding.md R58). -/
  | host (w : BitVec 39)
  /-- The host reaches the register window over a byte-addressed bus (20_memory.md R43; log 11). -/
  | bus (acc : BusAccess)
  /-- The host writes one byte of the memory the message lies in, at a location (R11, R49; log 16). -/
  | store (location : Nat) (b : Byte)
  /-- The engine takes the micro-step of its phase (46_sequencer.md R128). -/
  | engine
  /-- The reset signal (70_reset_and_hazards.md R155). -/
  | reset
deriving DecidableEq, Repr

/-- The engine (R13), the message memory it reads (R35), what the host has read (R160), the parameters (R6), and the
model's own bookkeeping: the pending events, the values of racing message bytes, and where free values are drawn from. -/
structure State where
  /-- H[0..7], the hash state (R16). -/
  H : Vector Word 8
  /-- a..h, the working state (R15). -/
  ws : WorkingState
  /-- W[0..63], the message schedule (R17). -/
  W : Vector Word 64
  /-- The phase, as its SEQ code (R21, 30_encoding.md R59; log 19). -/
  phase : BitVec 3
  /-- t (R22). -/
  t : BitVec 6
  /-- The index of the block being processed (R23). -/
  blk : Len64
  /-- The number of blocks of the padded message (R24). -/
  nblk : Len64
  /-- The length of the message being hashed (R25). -/
  mlen : Len64
  /-- LEN (R31). -/
  len : Len64
  /-- STATUS.DONE (R29). -/
  done : Bool
  /-- STATUS.ERR (R30). -/
  err : Bool
  /-- STATUS.ERRCODE (R30). -/
  errCode : BitVec 4
  /-- The message memory, outside the engine (R35). -/
  msg : Memory
  /-- The Words the host's reads returned, oldest first (70_reset_and_hazards.md R160; log 5). -/
  observed : List Word
  /-- MAX_LEN, REG_BASE and MSG_MAP (00_scope.md R6). -/
  params : Params
  /-- The model's own: the events still to come, the next one first (log 1). -/
  agenda : List Event
  /-- The model's own: for each location written since the accepted START, the values it held before, the newest first
  (20_memory.md R51; log 15). -/
  overwritten : List Host.Cell
  /-- The model's own: how many free values have been drawn (log 6). -/
  draws : Nat
  /-- The model's own: which instance's free values are drawn (60_exceptions.md R152; log 25). No transaction sees it. -/
  source : Nat
deriving DecidableEq, Repr

/-- Why the machine stops with a fault. No run from reset reaches any of them. -/
inductive Fault where
  /-- The phase code is 5, 6 or 7 (30_encoding.md R59, "unreachable phase"). Raised by the engine's step. Safe. -/
  | unreachablePhase (code : BitVec 3)
  /-- The padder met k < 7 or k mod 8 ≠ 7 (60_exceptions.md R142, "padding assertion"). Raised by LOAD. Safe. -/
  | paddingAssertion
  /-- LOAD found blk ≥ nblk, where no byte of the padded message exists (41_padding.md R89, R92; log 17). Safe. -/
  | blockIndexOutOfRange
  /-- EXPAND found t < 16, where the recurrence has no operands (42_schedule.md R96; log 18). Safe. -/
  | scheduleIndexOutOfRange
  /-- A read of STATUS found an ERRCODE of 3..15, which is never produced (60_exceptions.md R137,
  93_implementation_defined.md I7; log 21). Raised by RD_STATUS. Safe. -/
  | reservedErrorCode (code : BitVec 4)
deriving DecidableEq, Repr

/-- Why a step has no meaning. -/
inductive Refusal where
  /-- An instruction without a meaning yet. Raised by exec's refused arms only; no arm is refused. Safe. -/
  | notModelled (mnemonic : String)
  /-- The padder was given a length of 2^61 bytes or more (93_implementation_defined.md I2). Raised by LOAD; no run from
  reset reaches it (log 17). Safe. -/
  | oversizedMessage
  /-- A platform access to the register window that is not an aligned 32-bit access (20_memory.md R43). Safe. -/
  | unsupportedBusAccess
  /-- A platform access that does not reach the register window (log 11). Safe. -/
  | outsideRegisterWindow
deriving DecidableEq, Repr

/-- The outcome of one step. -/
abbrev Result := Host.Outcome State Fault Refusal

/-- The state right after reset: phase IDLE, DONE = ERR = 0, ERRCODE = 0 and LEN = 0 as R37 says. R37 leaves every
other register unspecified; the values here are DESIGN CHOICEs (log 8; t and nblk: log 9). The message memory lists
nothing, nothing has been read, and the parameters are Params.default (log 10, log 11, log 12). -/
def State.reset : State :=
  { H := Vector.replicate 8 0, ws := ⟨0, 0, 0, 0, 0, 0, 0, 0⟩, W := Vector.replicate 64 0,
    phase := 0, t := 16, blk := 0, nblk := 1, mlen := 0,
    len := 0, done := false, err := false, errCode := 0,
    msg := [], observed := [], params := Params.default,
    agenda := [], overwritten := [], draws := 0, source := 0 }

end Sys2Proof.Machine
end

