-- ==== Sys2Proof/Machine/Compression.lean ====
section
/-! DEFINITION. The compression rounds and the hash-state accumulator (43_compression.md R100 to R108). -/

namespace Sys2Proof.Machine

/-- (a, …, h) = (H[0], …, H[7]) (R101). -/
def seedWorking (H : Vector Word 8) : WorkingState :=
  ⟨H[0], H[1], H[2], H[3], H[4], H[5], H[6], H[7]⟩

/-- WS[0..7] = (a, …, h) (10_state.md R15). -/
def workingWords (v : WorkingState) : Vector Word 8 :=
  #v[v.a, v.b, v.c, v.d, v.e, v.f, v.g, v.h]

/-- `T1 = h + BSIG1(e) + CH(e, f, g) + K[t] + W[t]` (R102), for the round's constant k and word w. -/
def roundT1 (v : WorkingState) (k w : Word) : Word :=
  sumWords [v.h, bsig1 v.e, ch v.e v.f v.g, k, w]

/-- `T2 = BSIG0(a) + MAJ(a, b, c)` (R102). -/
def roundT2 (v : WorkingState) : Word :=
  add32 (bsig0 v.a) (maj v.a v.b v.c)

/-- One round: `(h, g, f, e, d, c, b, a) <- (g, f, e, d + T1, c, b, a, T1 + T2)`, all at once (R102). -/
def roundWorking (v : WorkingState) (k w : Word) : WorkingState :=
  { h := v.g, g := v.f, f := v.e, e := add32 v.d (roundT1 v k w),
    d := v.c, c := v.b, b := v.a, a := add32 (roundT1 v k w) (roundT2 v) }

/-- `Round(t, a..h, W[t])`, with the constant K[t] (R102, R103). -/
def compressionRound (t : Nat) (h : t < 64) (v : WorkingState) (w : Word) : WorkingState :=
  roundWorking v K[t] w

/-- The first k of the 64 rounds over a schedule (R107). -/
def roundsFirst (W : Vector Word 64) (v : WorkingState) : Nat → WorkingState
  | 0 => v
  | k + 1 => if h : k < 64 then compressionRound k h (roundsFirst W v k) W[k] else roundsFirst W v k

/-- `H[i] + WS[i]` mod 2^32, for i = 0..7 (R105). -/
def accumulate (H : Vector Word 8) (v : WorkingState) : Vector Word 8 :=
  Vector.ofFn fun i => add32 H[i.val] (workingWords v)[i.val]

/-- `Compress(H, B)` (R107). -/
def compress (H : Vector Word 8) (B : Vector Byte 64) : Vector Word 8 :=
  accumulate H (roundsFirst (schedule B) (seedWorking H) 64)

/-- The first k rounds with a 16-word window (42_schedule.md R99): the working state and the window after them. -/
def windowRounds (B : Vector Byte 64) (v : WorkingState) : Nat → WorkingState × Vector Word 16
  | 0 => (v, windowInit B)
  | k + 1 =>
    if h : k < 64 then
      (compressionRound k h (windowRounds B v k).1 (windowRounds B v k).2[0], windowNext (windowRounds B v k).2)
    else windowRounds B v k

/-- The compression of one block with a 16-word window instead of the 64-entry schedule (R99). -/
def compressWindow (H : Vector Word 8) (B : Vector Byte 64) : Vector Word 8 :=
  accumulate H (windowRounds B (seedWorking H) 64).1

end Sys2Proof.Machine
end

