-- ==== Sys2Proof/Machine/Flags.lean ====
section
/-! DEFINITION. The status bits: BUSY, the STATUS word, the error codes and START's checks. The engine has no carry,
overflow or other arithmetic flag (40_word_ops.md R67, R81). -/

namespace Sys2Proof.Machine

/-- The SEQ codes (10_state.md R21). -/
def phaseIdle : BitVec 3 := 0
/-- LOAD = 1 (R21). -/
def phaseLoad : BitVec 3 := 1
/-- EXPAND = 2 (R21). -/
def phaseExpand : BitVec 3 := 2
/-- ROUND = 3 (R21). -/
def phaseRound : BitVec 3 := 3
/-- ACCUM = 4 (R21). -/
def phaseAccum : BitVec 3 := 4

/-- BUSY = 1 exactly when phase ≠ IDLE (10_state.md R28). -/
def State.busy (s : State) : Bool := s.phase != phaseIdle

/-- `zext_32(concat(ERRCODE, 0b0, ERR, DONE, BUSY))` (R27). -/
def State.statusWord (s : State) : Word :=
  (s.errCode ++ 0#1 ++ BitVec.ofBool s.err ++ BitVec.ofBool s.done ++ BitVec.ofBool s.busy).setWidth 32

/-- LEN_OVERFLOW (60_exceptions.md R137). -/
def errLenOverflow : BitVec 4 := 1

/-- LEN_UNSUPPORTED (R137). -/
def errLenUnsupported : BitVec 4 := 2

/-- ERRCODE is one of the values 3..15 that are never produced (R137, 93_implementation_defined.md I7). -/
def State.errorCodeReserved (s : State) : Bool := decide (3 ≤ s.errCode.toNat)

/-- LEN ≥ 2^61, which is LEN[63:61] ≠ 0 (R138). -/
def State.lenOverflows (s : State) : Bool := decide (2 ^ 61 ≤ s.len.toNat)

/-- LEN > MAX_LEN (R139). -/
def State.lenUnsupported (s : State) : Bool := decide (s.params.maxLen.val < s.len.toNat)

end Sys2Proof.Machine
end

