-- ==== Sys2Proof/Machine/Padding.lean ====
section
/-! DEFINITION. The message padder and the block segmenter as functions of the length and the message bytes
(41_padding.md R82 to R94). Lengths and indices are exact (00_scope.md R9). -/

namespace Sys2Proof.Machine

/-- r = (L + 1) mod 512 (R84). -/
def padRemainder (L : Nat) : Nat := (L + 1) % 512

/-- k, the number of zero bits after the appended 1 bit, for the bit length L (R84). -/
def padZeroBits (L : Nat) : Nat :=
  if padRemainder L ≤ 448 then 448 - padRemainder L else (512 - padRemainder L) + 448

/-- The internal assertion of 60_exceptions.md R142: k ≥ 7 and k mod 8 = 7. -/
def paddingAssertionHolds (L : Nat) : Bool :=
  7 ≤ padZeroBits L && padZeroBits L % 8 == 7

/-- (k − 7) / 8, the number of zero bytes between the 0x80 byte and the length field, for n message bytes (R86). -/
def padZeroBytes (n : Nat) : Nat := (padZeroBits (8 * n) - 7) / 8

/-- P, the padded length in bytes of a message of n bytes (R87). -/
def paddedLength (n : Nat) : Nat := n + 1 + padZeroBytes n + 8

/-- nblk = floor((n + 8) / 64) + 1, the block count (R88). -/
def blockCount (n : Nat) : Nat := (n + 8) / 64 + 1

/-- The 8 bytes of the length field, BYTES64(L) (40_word_ops.md R80). -/
def lengthField (L : Nat) : List Byte :=
  (List.range 8).map (bytes64 (BitVec.ofNat 64 L))

/-- PaddedMessage(M) (R86). -/
def paddedMessage (M : List Byte) : List Byte :=
  M ++ [0x80#8] ++ List.replicate (padZeroBytes M.length) 0x00#8 ++ lengthField (8 * M.length)

/-- Block j of the padded message of M (R92). -/
def messageBlock (M : List Byte) (j : Nat) : Vector Byte 64 :=
  Vector.ofFn fun n => (paddedMessage M).getD (64 * j + n.val) 0

/-- PadByte(i) for a message of n bytes in N blocks (R89). The message port is `read`, which only an offset below n can
be given to: a read outside [0, n) has no step (20_memory.md R39). -/
def padByte (n N : Nat) (read : (i : Nat) → i < n → Byte) (i : Nat) : Byte :=
  if h : i < n then read i h
  else if i = n then 0x80
  else if i < 64 * N - 8 then 0x00
  else bytes64 (BitVec.ofNat 64 (8 * n)) (i - (64 * N - 8))

end Sys2Proof.Machine
end

