-- ==== Sys2Proof/Machine/Ops.lean ====
section
/-! DEFINITION. The shared operations over the message memory and the registers: memory reads and writes, the result of
a transaction, recording an error, accepting a START, and the reset step. -/

namespace Sys2Proof.Machine

/-- The canonical form: locations strictly rising. A location not listed has no value of its own (log 14), so no entry is
equal to what an unlisted location reads as. -/
abbrev Memory.wf (m : Memory) : Prop := m.Pairwise fun x y => x.1 < y.1

/-- The byte a location holds, if something has written it. -/
def Memory.read : Memory → Nat → Option Byte
  | [], _ => none
  | (a, b) :: m, i => if a = i then some b else Memory.read m i

/-- Write one byte, keeping the canonical form. -/
def Memory.write : Memory → Nat → Byte → Memory
  | [], i, v => [(i, v)]
  | (a, b) :: m, i, v =>
    if i < a then (i, v) :: (a, b) :: m
    else if i = a then (i, v) :: m
    else (a, b) :: Memory.write m i v

/-- The byte of the memory at a location: what was last written there (20_memory.md R49), else a free value that is the
same on every read (R45; log 14). -/
def State.memoryByte (s : State) (l : Nat) : Byte :=
  match s.msg.read l with
  | some b => b
  | none => Config.unwrittenByte s.source l

/-- `MSG_MAP(i)` (20_memory.md R39). -/
def State.location (s : State) (i : Nat) : Nat := s.params.msgMap.location i

/-- The byte held at message offset i, which lies at MSG_MAP(i) (20_memory.md R39). -/
def State.messageByte (s : State) (i : Nat) : Byte := s.memoryByte (s.location i)

/-- The values a location held since the accepted START and before host writes replaced them, newest first (R51). -/
def valuesOverwritten (cells : List Host.Cell) (l : Nat) : List Byte :=
  (cells.filter fun c => c.1 == l).map fun c => c.2

/-- The values message offset i held since the accepted START and before host writes replaced them (R51). -/
def State.messageOverwritten (s : State) (i : Nat) : List Byte := valuesOverwritten s.overwritten (s.location i)

/-- The byte MemRead(i, 1) returns: the byte held at offset i; where the host wrote it since the accepted START, a
free one of the values it has held since then (R51; log 15). -/
def State.portByte (s : State) (i : Nat) : Byte :=
  match s.messageOverwritten i with
  | [] => s.messageByte i
  | old@(_ :: _) =>
    (s.messageByte i :: old).getD (Config.raceChoice s.source s.draws i % (old.length + 1)) (s.messageByte i)

/-- `MemRead(i, 1)`, which exists only for i < mlen (R39). -/
def State.memRead (s : State) (i : Nat) (_ : i < s.mlen.toNat) : Byte := s.portByte i

/-- The transaction's result: one Word goes to the host (45_host_interface.md R114; log 5). -/
def State.observe (s : State) (w : Word) : State := { s with observed := s.observed ++ [w] }

/-- One free value has been drawn. -/
def State.drawn (s : State) : State := { s with draws := s.draws + 1 }

/-- `raise Error(code)`, the engine's only "trap entry" (60_exceptions.md R140, R145). There is no return operation:
the next accepted START clears the error (R146). -/
def State.raiseError (s : State) (code : BitVec 4) : State :=
  { s with err := true, errCode := code, done := false }

/-- An accepted START (45_host_interface.md R121): LEN is latched, the block count computed, H set to IV (43_compression.md
R100), DONE, ERR and ERRCODE cleared, and the phase becomes LOAD. The window of R51 begins here. -/
def State.acceptStart (s : State) : State :=
  { s with
    mlen := s.len, nblk := BitVec.ofNat 64 (blockCount s.len.toNat), blk := 0, H := IV,
    done := false, err := false, errCode := 0, phase := phaseLoad, overwritten := [] }

/-- The reset step (70_reset_and_hazards.md R156): the specified elements get the values of 10_state.md R37, every
other engine element a free value (log 7). The message memory, what the host has read, the parameters and the pending
events are not the engine's and stay. A computation in progress is abandoned (R157). -/
def State.resetStep (s : State) : State :=
  { s with
    phase := phaseIdle, done := false, err := false, errCode := 0, len := 0,
    H := Vector.ofFn (Config.resetHash s.source s.draws),
    ws := seedWorking (Vector.ofFn (Config.resetWorking s.source s.draws)),
    W := Vector.ofFn (Config.resetSchedule s.source s.draws),
    t := Config.resetT s.source s.draws, blk := Config.resetBlk s.source s.draws,
    nblk := Config.resetNblk s.source s.draws, mlen := Config.resetMlen s.source s.draws,
    overwritten := [], draws := s.draws + 1 }

/-- The host writes one byte at a location (00_scope.md R11). While BUSY = 1 the value it replaces becomes a candidate of
R51; the engine looks at the candidates of offsets below mlen only (log 15). -/
def State.storeByte (s : State) (l : Nat) (b : Byte) : State :=
  { s with
    msg := s.msg.write l b,
    overwritten := if s.busy then (l, s.memoryByte l) :: s.overwritten else s.overwritten }

/-- LEN with a new lower half (45_host_interface.md R124). -/
def State.setLenLo (s : State) (data : Word) : State :=
  { s with len := (s.len.extractLsb' 32 32).setWidth 64 <<< 32 ||| data.setWidth 64 }

/-- LEN with a new upper half (R125). -/
def State.setLenHi (s : State) (data : Word) : State :=
  { s with len := data.setWidth 64 <<< 32 ||| (s.len.extractLsb' 0 32).setWidth 64 }

end Sys2Proof.Machine
end

