-- ==== Sys2Proof/Machine/Operands.lean ====
section
/-! DEFINITION. The operand forms: the halves of LEN, the digest words, the bytes of the current block, and the
translation of a platform's bus access to a transaction. A host transaction's other operands are the fields of its
encoding (30_encoding.md R60); a micro-step's operands are the state. -/

namespace Sys2Proof.Machine

/-- LEN[31:0] (10_state.md R31). -/
def State.lenLo (s : State) : Word := s.len.extractLsb' 0 32

/-- LEN[63:32] (R31). -/
def State.lenHi (s : State) : Word := s.len.extractLsb' 32 32

/-- H[i], for a digest word index i (10_state.md R32). -/
def State.digestWord (s : State) (i : BitVec 3) : Word := s.H[i.toNat]'(i.isLt)

/-- B[n] = PadByte(64 × blk + n), n = 0..63 (46_sequencer.md R130, 41_padding.md R92). -/
def State.currentBlock (s : State) : Vector Byte 64 :=
  Vector.ofFn fun n => padByte s.mlen.toNat s.nblk.toNat s.memRead (64 * s.blk.toNat + n.val)

/-- The message offsets the LOAD of block j reads: those of the block below n, in rising order (20_memory.md R40). -/
def loadOffsets (n j : Nat) : List Nat :=
  ((List.range 64).map fun k => 64 * j + k).filter fun i => i < n

/-- The transaction a platform access performs: an aligned 32-bit access at REG_BASE + 4n is a transaction of index n;
any other access to the window is refused (20_memory.md R43), and so is an access that does not reach it (log 11). -/
def busTransaction (p : Params) (acc : BusAccess) : Except Refusal (BitVec 39) :=
  if acc.addr < p.regBase ∨ p.regBase + 256 ≤ acc.addr then .error .outsideRegisterWindow
  else if acc.size = 4 ∧ (acc.addr - p.regBase) % 4 = 0 then
    .ok (hostWord acc.write (BitVec.ofNat 6 ((acc.addr - p.regBase) / 4)) (if acc.write then acc.data else 0))
  else .error .unsupportedBusAccess

end Sys2Proof.Machine
end

