-- ==== Sys2Proof/Machine/HostRead.lean ====
section
/-! DEFINITION. The host's read transactions (45_host_interface.md R115 to R120). A read yields one Word to the host and
changes no other state (R114, 20_memory.md R45). -/

namespace Sys2Proof.Machine

/-- RD_CTRL (R115): CTRL reads 0. -/
def execRdCtrl (s : State) : Result := .next (s.observe 0)

/-- RD_STATUS (R116). An ERRCODE of 3..15, which no run reaches (60_exceptions.md R137), faults as
93_implementation_defined.md I7 says (log 21). -/
def execRdStatus (s : State) : Result :=
  if s.errorCodeReserved then .fault (.reservedErrorCode s.errCode)
  else .next (s.observe s.statusWord)

/-- RD_LEN_LO (R117). -/
def execRdLenLo (s : State) : Result := .next (s.observe s.lenLo)

/-- RD_LEN_HI (R118). -/
def execRdLenHi (s : State) : Result := .next (s.observe s.lenHi)

/-- RD_DIGEST i (R119): H[i] when DONE = 1, otherwise a fresh draw (log 6). -/
def execRdDigest (i : BitVec 3) (s : State) : Result :=
  if s.done then .next (s.observe (s.digestWord i))
  else .next (s.observe (Config.digestDraw s.source s.draws)).drawn

/-- RD_RSVD n, 4 ≤ n ≤ 7 (R120): a reserved index reads 0. -/
def execRdRsvdA (_n : BitVec 6) (s : State) : Result := .next (s.observe 0)

/-- RD_RSVD n, 16 ≤ n ≤ 31 (R120): a reserved index reads 0. -/
def execRdRsvdB (_n : BitVec 6) (s : State) : Result := .next (s.observe 0)

/-- RD_RSVD n, 32 ≤ n ≤ 63 (R120): a reserved index reads 0. -/
def execRdRsvdC (_n : BitVec 6) (s : State) : Result := .next (s.observe 0)

end Sys2Proof.Machine
end

