-- ==== Sys2Proof/Machine/HostWrite.lean ====
section
/-! DEFINITION. The host's write transactions (45_host_interface.md R121 to R127). Only START and the two halves of LEN
have an effect (20_memory.md R45). -/

namespace Sys2Proof.Machine

/-- WR_CTRL with DATA[0] = 1 (R121): ignored while a computation is in progress, else rejected for a length that is
too long, LEN_OVERFLOW before LEN_UNSUPPORTED (60_exceptions.md R141), else accepted. DATA[31:1] is ignored. -/
def execWrCtrlStart (_data : Word) (s : State) : Result :=
  if s.busy then .next s
  else if s.lenOverflows then .next (s.raiseError errLenOverflow)
  else if s.lenUnsupported then .next (s.raiseError errLenUnsupported)
  else .next s.acceptStart

/-- WR_CTRL with DATA[0] = 0 (R122): no effect. -/
def execWrCtrlNop (_data : Word) (s : State) : Result := .next s

/-- WR_STATUS (R123): no effect. -/
def execWrStatus (_data : Word) (s : State) : Result := .next s

/-- WR_LEN_LO (R124): `LEN[31:0] <- DATA`. -/
def execWrLenLo (data : Word) (s : State) : Result := .next (s.setLenLo data)

/-- WR_LEN_HI (R125): `LEN[63:32] <- DATA`. -/
def execWrLenHi (data : Word) (s : State) : Result := .next (s.setLenHi data)

/-- WR_RSVD n, 4 ≤ n ≤ 7 (R127): no effect. -/
def execWrRsvdA (_n : BitVec 6) (_data : Word) (s : State) : Result := .next s

/-- WR_DIGEST i (R126): no effect; H is not writable from the host. -/
def execWrDigest (_i : BitVec 3) (_data : Word) (s : State) : Result := .next s

/-- WR_RSVD n, 16 ≤ n ≤ 31 (R127): no effect. -/
def execWrRsvdB (_n : BitVec 6) (_data : Word) (s : State) : Result := .next s

/-- WR_RSVD n, 32 ≤ n ≤ 63 (R127): no effect. -/
def execWrRsvdC (_n : BitVec 6) (_data : Word) (s : State) : Result := .next s

end Sys2Proof.Machine
end

