-- ==== Sys2Proof/Machine/Sequencer.lean ====
section
/-! DEFINITION. The sequencer's micro-steps (46_sequencer.md R129 to R133). All writes of one step take effect together
(00_scope.md R10). -/

namespace Sys2Proof.Machine

/-- IDLE (R129): the engine has no step, so nothing changes (log 20). -/
def execIdle (s : State) : Result := .next s

/-- LOAD's writes (R130): the block's 16 words, the working state seeded from H, t and the phase. The one draw is the
choice among the values of racing message bytes (20_memory.md R51; log 15). -/
def State.loadBlock (s : State) : State :=
  { s with
    W := decodeBlock s.currentBlock s.W, ws := seedWorking s.H,
    t := 16, phase := phaseExpand, draws := s.draws + 1 }

/-- LOAD (R130). The three stops are in states no run reaches (10_state.md R36): a length the padder is never run on
(41_padding.md R82, 93 I2), the padding assertion (60_exceptions.md R142), and a block past the padded message (log 17). -/
def execLoad (s : State) : Result :=
  if 2 ^ 61 ≤ s.mlen.toNat then .refused .oversizedMessage
  else if paddingAssertionHolds (8 * s.mlen.toNat) = false then .fault .paddingAssertion
  else if s.nblk.toNat ≤ s.blk.toNat then .fault .blockIndexOutOfRange
  else .next s.loadBlock

/-- EXPAND's writes (R131), for 16 ≤ t ≤ 63. -/
def State.expandStep (s : State) (lo : 16 ≤ s.t.toNat) : State :=
  { s with
    W := expandWord s.W s.t.toNat lo s.t.isLt,
    t := if s.t = 63 then 0 else s.t + 1,
    phase := if s.t = 63 then phaseRound else s.phase }

/-- EXPAND (R131). Its operand t is in 16..63; another t is in no reachable state (10_state.md R36) and stops (log 18). -/
def execExpand (s : State) : Result :=
  if lo : 16 ≤ s.t.toNat then .next (s.expandStep lo) else .fault .scheduleIndexOutOfRange

/-- ROUND's writes (R132). -/
def State.roundStep (s : State) : State :=
  { s with
    ws := compressionRound s.t.toNat s.t.isLt s.ws (s.W[s.t.toNat]'(s.t.isLt)),
    t := if s.t = 63 then s.t else s.t + 1,
    phase := if s.t = 63 then phaseAccum else s.phase }

/-- ROUND (R132). -/
def execRound (s : State) : Result := .next s.roundStep

/-- Whether the block being processed is the last one: blk + 1 = nblk, exact (R133; log 22). -/
def State.lastBlock (s : State) : Bool := s.blk.toNat + 1 == s.nblk.toNat

/-- ACCUM's writes (R133): the working state is added into H, and the next block begins or the computation finishes. -/
def State.accumStep (s : State) : State :=
  { s with
    H := accumulate s.H s.ws,
    phase := if s.lastBlock then phaseIdle else phaseLoad,
    done := if s.lastBlock then true else s.done,
    blk := s.blk + 1 }

/-- ACCUM (R133). -/
def execAccum (s : State) : Result := .next s.accumStep

end Sys2Proof.Machine
end

