-- ==== Sys2Proof/Machine/Dispatch.lean ====
section
/-! DEFINITION. One arm per constructor of Instr: the meaning of each instruction. -/

namespace Sys2Proof.Machine

def exec (i : Instr) (s : State) : Host.Outcome State Fault Refusal :=
  match i with
  -- HOSTTXN, reads
  | .rdCtrl => Sys2Proof.Machine.execRdCtrl s
  | .rdStatus => Sys2Proof.Machine.execRdStatus s
  | .rdLenLo => Sys2Proof.Machine.execRdLenLo s
  | .rdLenHi => Sys2Proof.Machine.execRdLenHi s
  | .rdRsvdA n => Sys2Proof.Machine.execRdRsvdA n s
  | .rdDigest k => Sys2Proof.Machine.execRdDigest k s
  | .rdRsvdB n => Sys2Proof.Machine.execRdRsvdB n s
  | .rdRsvdC n => Sys2Proof.Machine.execRdRsvdC n s
  -- HOSTTXN, writes
  | .wrCtrlStart data => Sys2Proof.Machine.execWrCtrlStart data s
  | .wrCtrlNop data => Sys2Proof.Machine.execWrCtrlNop data s
  | .wrStatus data => Sys2Proof.Machine.execWrStatus data s
  | .wrLenLo data => Sys2Proof.Machine.execWrLenLo data s
  | .wrLenHi data => Sys2Proof.Machine.execWrLenHi data s
  | .wrRsvdA n data => Sys2Proof.Machine.execWrRsvdA n data s
  | .wrDigest k data => Sys2Proof.Machine.execWrDigest k data s
  | .wrRsvdB n data => Sys2Proof.Machine.execWrRsvdB n data s
  | .wrRsvdC n data => Sys2Proof.Machine.execWrRsvdC n data s
  -- SEQ
  | .idle => Sys2Proof.Machine.execIdle s
  | .load => Sys2Proof.Machine.execLoad s
  | .expand => Sys2Proof.Machine.execExpand s
  | .round => Sys2Proof.Machine.execRound s
  | .accum => Sys2Proof.Machine.execAccum s

end Sys2Proof.Machine
end

