-- ==== Sys2Proof/Machine/Agents.lean ====
section
/-! DEFINITION. The atomic steps of the agents (00_scope.md R11): a host transaction, a platform access, a message byte
written by the host, the engine's micro-step and reset. -/

namespace Sys2Proof.Machine

/-- Decode a code and run the instruction. An unreachable SEQ code faults by name (30_encoding.md R59). -/
def runCode (c : Code) (s : State) : Result :=
  match decode c with
  | .ok i => exec i s
  | .error (.unreachablePhase k) => .fault (.unreachablePhase k)

/-- The engine's step: the micro-step its phase code selects (46_sequencer.md R128). -/
def engineStep (s : State) : Result := runCode (.seq s.phase) s

/-- A host transaction (45_host_interface.md R114). -/
def hostStep (w : BitVec 39) (s : State) : Result := runCode (.hosttxn w) s

/-- A platform access: the transaction it performs, or a refusal (20_memory.md R43). -/
def busStep (acc : BusAccess) (s : State) : Result :=
  match busTransaction s.params acc with
  | .ok w => hostStep w s
  | .error r => .refused r

/-- The host writes a byte of the memory the message lies in (20_memory.md R49; log 16). -/
def storeStep (l : Nat) (b : Byte) (s : State) : Result := .next (s.storeByte l b)

/-- One event is one atomic step of its agent (20_memory.md R44, R49). -/
def agentStep (e : Event) (s : State) : Result :=
  match e with
  | .host w => hostStep w s
  | .bus acc => busStep acc s
  | .store l b => storeStep l b s
  | .engine => engineStep s
  | .reset => .next s.resetStep

/-- The state in which the very next step runs a word numbered as spec/opcode_table.json numbers it (log 2): a HOSTTXN
word is the host's next transaction; a SEQ word is the phase code, with the engine's step next. The width tells the
formats apart (log 3). -/
def State.placeWord (s : State) (nbits w : Nat) : State :=
  if nbits ≤ 32 then { s with phase := BitVec.ofNat 3 w, agenda := .engine :: s.agenda }
  else { s with agenda := .host (BitVec.ofNat 39 w) :: s.agenda }

end Sys2Proof.Machine
end

