-- ==== Sys2Proof/Machine/Step.lean ====
section
/-! DEFINITION. One step of the execution (00_scope.md R11, 20_memory.md R49): the next event's agent acts; when no event is
pending the engine goes on alone (70_reset_and_hazards.md R167; log 1). -/

namespace Sys2Proof.Machine

def step (s : State) : Host.Outcome State Fault Refusal :=
  match s.agenda with
  | [] => engineStep s
  | e :: rest => agentStep e { s with agenda := rest }

/-- See `State.placeWord`. -/
def State.withFetchWord (s : State) (nbits w : Nat) : State := s.placeWord nbits w

end Sys2Proof.Machine
end

