-- ==== Sys2Proof/Machine/Assembly.lean ====
section
/-! DEFINITION. The host's assembler (30_encoding.md R64, R65): one transaction per line, and the pseudo-instructions as the
transactions they expand to. The host's own control flow, the loop of WAIT, is the host's and not the engine's (R64);
its exit test is given (log 23). -/

namespace Sys2Proof.Machine

/-- `<reg>`: CTRL, STATUS, LEN_LO, LEN_HI, DIGEST0 to DIGEST7, or RSVD<n> (R64). -/
inductive Reg where
  | ctrl
  | status
  | lenLo
  | lenHi
  | digest (i : BitVec 3)
  | rsvd (n : BitVec 6)
deriving DecidableEq, Repr

/-- A line of a host program (R64). -/
inductive AsmLine where
  | wr (r : Reg) (value : Word)
  | rd (r : Reg)
deriving DecidableEq, Repr

/-- RSVD<n> exists for a reserved index n in 4..7 or 16..63 (R64). -/
def regLegal : Reg → Bool
  | .rsvd n => rsvdA n || rsvdB n || rsvdC n
  | .ctrl | .status | .lenLo | .lenHi | .digest _ => true

/-- The register's index (20_memory.md R46). -/
def regIndex : Reg → BitVec 6
  | .ctrl => 0
  | .status => 1
  | .lenLo => 2
  | .lenHi => 3
  | .digest i => digestIdx i
  | .rsvd n => n

/-- The 39-bit encoding of a line (R64). -/
def assembleLine : AsmLine → BitVec 39
  | .wr r value => hostWord true (regIndex r) value
  | .rd r => hostWord false (regIndex r) 0

/-- `SETLEN n` (R65). -/
def asmSetLen (n : Len64) : List AsmLine :=
  [.wr .lenLo (n.extractLsb' 0 32), .wr .lenHi (n.extractLsb' 32 32)]

/-- `START` (R65). -/
def asmStart : List AsmLine := [.wr .ctrl 1]

/-- The transaction `WAIT` repeats (R65). -/
def asmPoll : AsmLine := .rd .status

/-- `WAIT` repeats while bit 0 (BUSY) of the value is 1 (R65). -/
def waitAgain (v : Word) : Bool := v.getLsbD 0

/-- `CHECK`'s transaction (R65). -/
def asmCheck : List AsmLine := [.rd .status]

/-- `CHECK`: the computation succeeded exactly when bits[2:1] = 0b01 (R65). -/
def checkPasses (v : Word) : Bool := v.extractLsb' 1 2 == 1#2

/-- `READDIGEST` (R65). -/
def asmReadDigest : List AsmLine :=
  [.rd (.digest 0), .rd (.digest 1), .rd (.digest 2), .rd (.digest 3),
   .rd (.digest 4), .rd (.digest 5), .rd (.digest 6), .rd (.digest 7)]

/-- `HASH n` up to its WAIT (R65). -/
def asmHashStart (n : Len64) : List AsmLine := asmSetLen n ++ asmStart

/-- `HASH n` after its WAIT (R65). -/
def asmHashFinish : List AsmLine := asmCheck ++ asmReadDigest

/-- The events of a host program that runs its lines one after another. -/
def lineEvents (ls : List AsmLine) : List Event := ls.map fun l => .host (assembleLine l)

end Sys2Proof.Machine
end

