-- ==== Sys2Proof/Machine/Platform.lean ====
section
/-! DEFINITION. A platform with several engines (60_exceptions.md R152): independent instances, each with its own state, that
do not communicate. NUM_ENGINES is the length of the list (00_scope.md R6; log 13). -/

namespace Sys2Proof.Machine

/-- One State per engine instance. -/
abbrev Platform := List State

/-- What 00_scope.md R6 and R152 ask of a platform: NUM_ENGINES ≥ 1, and each instance's parameters legal. Each instance
draws its free values from its own source, so that no two need agree (log 25). -/
structure Platform.Legal (p : Platform) : Prop where
  numEngines : 1 ≤ p.length
  params : ∀ s ∈ p, s.params.Legal
  sources : (p.map fun s => s.source).Nodup

/-- Instance k takes its next step; there is no other interaction. An instance number past the list has no step. The
free values the step may draw are instance k's own: those of its source (log 25). -/
def Platform.stepAt (p : Platform) (k : Nat) : Option (Host.Outcome Platform Fault Refusal) :=
  match p[k]? with
  | none => none
  | some s =>
    match step s with
    | .next s' => some (.next (p.set k s'))
    | .fault r => some (.fault r)
    | .refused r => some (.refused r)

/-- Instance k after its own reset, with its parameters and its own source of free values. -/
def instanceAtReset (params : Nat → Params) (k : Nat) : State :=
  { State.reset with params := params k, source := k }

/-- Each of the NUM_ENGINES instances starts idle after its own reset (R152), with the parameters the platform gives it
(00_scope.md R6). -/
def Platform.powerOn (n : NumEngines) (params : Nat → Params) : Platform :=
  (List.range n.val).map (instanceAtReset params)

end Sys2Proof.Machine
end

