-- ==== Sys2Proof/Machine/Output.lean ====
section
/-! DEFINITION. The output encoder and the reference function (44_output.md R109 to R113). -/

namespace Sys2Proof.Machine

/-- `Encode(H)[4i + j] = BYTES32(H[i])[j]` (R109). -/
def encodeDigest (H : Vector Word 8) : Vector Byte 32 :=
  Vector.ofFn fun n => bytes32 (H[n.val / 4]'(by omega)) (n.val % 4)

/-- The chained hash state after the first j blocks of the padded message of M: H_0 = IV and
H_{j+1} = Compress(H_j, Block_M(j)) (R110, 43_compression.md R108). -/
def hashAfter (M : List Byte) : Nat → Vector Word 8
  | 0 => IV
  | j + 1 => compress (hashAfter M j) (messageBlock M j)

/-- The reference function SHA256(M), for a message M of fewer than 2^61 bytes (R110). For a longer M the spec gives no
value (R110, 93_implementation_defined.md I2); this function is total and returns one there, a DESIGN CHOICE that no
statement rests on (log 24). -/
def sha256 (M : List Byte) : Vector Byte 32 :=
  encodeDigest (hashAfter M (blockCount M.length))

end Sys2Proof.Machine
end

