-- ==== Sys2Proof/Safety.lean ====
section
/-! DEFINITION. What claims are stated in: the invariants of 10_state.md R36, what a computation in progress has done so
far (44_output.md R111), and how many of its engine steps are left (46_sequencer.md R134). -/

namespace Sys2Proof.Machine

/-- The invariants of R36, in its order. Clause (7), and the bound t ≤ 63 of (6), hold by t's width. -/
structure EngineInv (s : State) : Prop where
  /-- (1) BUSY = 1 implies DONE = 0 and ERR = 0. -/
  busy_flags : s.busy = true → s.done = false ∧ s.err = false
  /-- (2) DONE = 1 and ERR = 1 never hold together. -/
  not_both : ¬(s.done = true ∧ s.err = true)
  /-- (3) ERR = 0 implies ERRCODE = 0. -/
  no_error : s.err = false → s.errCode = 0
  /-- (4) ERR = 1 implies ERRCODE ∈ {1, 2}. -/
  error_code : s.err = true → s.errCode = 1 ∨ s.errCode = 2
  /-- (5) BUSY = 1 implies mlen ≤ MAX_LEN, nblk = floor((mlen + 8) / 64) + 1 and blk < nblk. -/
  busy_length : s.busy = true →
    s.mlen.toNat ≤ s.params.maxLen.val ∧ s.nblk.toNat = (s.mlen.toNat + 8) / 64 + 1 ∧ s.blk.toNat < s.nblk.toNat
  /-- (6) phase = EXPAND implies 16 ≤ t. -/
  expand_index : s.phase = phaseExpand → 16 ≤ s.t.toNat
  /-- (8) phase ∈ {5, 6, 7} never holds. -/
  phase_legal : s.phase.toNat ≤ 4

/-- The engine will read M as its message: mlen is M's length, and every byte of M stands in the message memory and has
not been written since the accepted START (70_reset_and_hazards.md R161). -/
def ReadsMessage (s : State) (M : List Byte) : Prop :=
  s.mlen.toNat = M.length ∧
  ∀ (i : Nat) (h : i < M.length), s.messageByte i = M[i] ∧ s.messageOverwritten i = []

/-- Where the computation of the current block stands: what the sequencer's steps so far have left in W and a..h
(43_compression.md R107). -/
def BlockProgress (M : List Byte) (s : State) : Prop :=
  s.phase = phaseLoad ∨
  (s.phase = phaseExpand ∧ 16 ≤ s.t.toNat ∧ s.ws = seedWorking s.H ∧
    ∀ (i : Nat) (h : i < 64), i < s.t.toNat → s.W[i] = (schedule (messageBlock M s.blk.toNat))[i]) ∨
  (s.phase = phaseRound ∧ s.W = schedule (messageBlock M s.blk.toNat) ∧
    s.ws = roundsFirst (schedule (messageBlock M s.blk.toNat)) (seedWorking s.H) s.t.toNat) ∨
  (s.phase = phaseAccum ∧
    s.ws = roundsFirst (schedule (messageBlock M s.blk.toNat)) (seedWorking s.H) 64)

/-- The engine is computing the digest of M, and every step so far has been right (R111, 43_compression.md R108). -/
structure Computing (M : List Byte) (s : State) : Prop where
  short : M.length < 2 ^ 61
  message : ReadsMessage s M
  blocks : s.nblk.toNat = blockCount M.length
  block : s.blk.toNat < s.nblk.toNat
  chained : s.H = hashAfter M s.blk.toNat
  not_done : s.done = false
  progress : BlockProgress M s

/-- The digest of M, a message that has one (44_output.md R110), is published (20_memory.md R52). -/
def Published (M : List Byte) (s : State) : Prop :=
  M.length < 2 ^ 61 ∧ s.phase = phaseIdle ∧ s.done = true ∧ s.H = hashAfter M (blockCount M.length)

/-- The event neither resets the engine nor writes one of the first n message bytes (44_output.md R111's premises). -/
def Undisturbed (m : MsgMap) (n : Nat) : Event → Prop
  | .host _ | .bus _ | .engine => True
  | .store l _ => ∀ i < n, m.location i ≠ l
  | .reset => False

/-- The next atomic step is the engine's own: no event is pending, or the next one is the engine's. -/
def EngineNext (s : State) : Prop :=
  s.agenda = [] ∨ ∃ rest, s.agenda = .engine :: rest

/-- The engine steps a computation has left (46_sequencer.md R134: 1 LOAD + 48 EXPAND + 64 ROUND + 1 ACCUM a block). -/
def stepsLeft (s : State) : Nat :=
  if s.phase = phaseLoad then 114 * (s.nblk.toNat - s.blk.toNat)
  else if s.phase = phaseExpand then 114 * (s.nblk.toNat - s.blk.toNat) - 1 - (s.t.toNat - 16)
  else if s.phase = phaseRound then 114 * (s.nblk.toNat - s.blk.toNat) - 49 - s.t.toNat
  else if s.phase = phaseAccum then 114 * (s.nblk.toNat - s.blk.toNat) - 113
  else 0

/-- The phase of the k-th engine step of a block, k = 0..113 (46_sequencer.md R135). -/
def phaseOfStep (k : Nat) : BitVec 3 :=
  if k = 0 then phaseLoad else if k ≤ 48 then phaseExpand else if k ≤ 112 then phaseRound else phaseAccum

/-- A big-endian number from its bytes, the most significant first (20_memory.md R41). -/
def beNat (bs : List Byte) : Nat := bs.foldl (fun acc b => 256 * acc + b.toNat) 0

end Sys2Proof.Machine
end

