-- ==== Sys2Proof/Certificates/Slice0/Obligations.lean ====
section
/-! DEFINITION. The statements for the provers, from the spec's numbered rules. -/

open Sys2Proof Sys2Proof.Machine

/-! ### Encoding -/

/-- Words written out from the fields of 30_encoding.md R58, R59 and the map of R61 decode to the instructions they stand
for. -/
def Obligations.WrittenWordsDecode : Prop :=
  decode (.hosttxn 0b0_000001_00000000000000000000000000000000) = .ok .rdStatus ∧
  decode (.hosttxn 0b0_001101_00000000000000000000000000000000) = .ok (.rdDigest 5) ∧
  decode (.hosttxn 0b0_111111_00000000000000000000000000000000) = .ok (.rdRsvdC 63) ∧
  decode (.hosttxn 0b1_000000_00000000000000000000000000000001) = .ok (.wrCtrlStart 1) ∧
  decode (.hosttxn 0b1_000000_11111111111111111111111111111110) = .ok (.wrCtrlNop 0xfffffffe) ∧
  decode (.hosttxn 0b1_000010_00000000000000000000000000000011) = .ok (.wrLenLo 3) ∧
  decode (.seq 0b001) = .ok .load ∧ decode (.seq 0b011) = .ok .round

/-- The decoder reads back every well-formed instruction from its encoding, and from the bytes of it (the order of the
bytes is the model's choice, log 3). -/
def Obligations.DecodeOfEncode : Prop :=
  ∀ i : Instr, i.wf = true → decode (encode i) = .ok i ∧ decodeBytes (codeBytes (encode i)) = .ok i

/-- R62: every 39-bit value decodes, to a well-formed host transaction whose encoding is the value's canonical form: the
value itself for a write, the value with DATA = 0 for a read. -/
def Obligations.EveryHostWordDecodes : Prop :=
  ∀ w : BitVec 39, ∃ i : Instr, decode (.hosttxn w) = .ok i ∧ i.isHost = true ∧ i.wf = true ∧
    i.isRead = !w.getLsbD 38 ∧
    encode i = .hosttxn (if w.getLsbD 38 then w else w &&& 0x7f00000000)

/-- R61: each 39-bit value matches exactly one HOSTTXN row of spec/opcode_table.json, and decodes to that row's
instruction; each SEQ row's code decodes to that row's instruction, and the codes 5, 6 and 7 to none. -/
def Obligations.DecodeFollowsOpcodeTable : Prop :=
  (∀ w : BitVec 39, ∃ r ∈ hostRows, w &&& r.mask = r.value ∧ (decodeHost w).mnemonic = r.mnemonic ∧
    ∀ r' ∈ hostRows, w &&& r'.mask = r'.value → r' = r) ∧
  (∀ p ∈ seqRows, ∃ i, decode (.seq p.2) = .ok i ∧ i.mnemonic = p.1) ∧
  ∀ c : BitVec 3, 5 ≤ c.toNat → decode (.seq c) = .error (.unreachablePhase c)

/-! ### The step -/

/-- A pending host transaction is decoded and run, on the state with that event taken off; with the engine next, the
micro-step of the phase code is. -/
def Obligations.StepRunsDecodedInstruction : Prop :=
  (∀ (s : State) (w : BitVec 39) (rest : List Event) (i : Instr),
    s.agenda = .host w :: rest → decode (.hosttxn w) = .ok i → step s = exec i { s with agenda := rest }) ∧
  (∀ (s : State) (i : Instr), EngineNext s → decode (.seq s.phase) = .ok i →
    step s = exec i { s with agenda := s.agenda.tail })

/-- 30_encoding.md R59: with the engine next, a phase code 5, 6 or 7 faults as an unreachable phase. -/
def Obligations.UnreachablePhaseFaults : Prop :=
  ∀ s : State, EngineNext s → 5 ≤ s.phase.toNat → step s = .fault (.unreachablePhase s.phase)

/-- 20_memory.md R43: an aligned 32-bit platform access at REG_BASE + 4n is the transaction of index n, and any other
access inside the register window is refused. That an access outside the window is refused is the model's choice
(log 11). -/
def Obligations.BusAccessIsTransactionOrRefused : Prop :=
  ∀ (s : State) (acc : BusAccess) (rest : List Event), s.agenda = .bus acc :: rest →
    (∀ n : BitVec 6, acc.size = 4 → acc.addr = s.params.regBase + 4 * n.toNat →
      step s = exec (if acc.write then decodeWrite n acc.data else decodeRead n) { s with agenda := rest }) ∧
    (s.params.regBase ≤ acc.addr → acc.addr < s.params.regBase + 256 →
      acc.size ≠ 4 ∨ (acc.addr - s.params.regBase) % 4 ≠ 0 → step s = .refused .unsupportedBusAccess) ∧
    (acc.addr < s.params.regBase ∨ s.params.regBase + 256 ≤ acc.addr → step s = .refused .outsideRegisterWindow)

/-- A host write to the memory the message lies in (20_memory.md R49): the byte written is the one held there from then
on, every other location holds what it held, so exactly the message offsets that MSG_MAP places there read the new byte,
and nothing of the engine changes. -/
def Obligations.HostStoreWritesOneByte : Prop :=
  ∀ (s : State) (l : Nat) (b : Byte) (rest : List Event), s.agenda = .store l b :: rest →
    ∃ t, step s = .next t ∧ t.memoryByte l = b ∧ (∀ k, k ≠ l → t.memoryByte k = s.memoryByte k) ∧
      (∀ i, t.messageByte i = if s.params.msgMap.location i = l then b else s.messageByte i) ∧
      t = { s with agenda := rest, msg := t.msg, overwritten := t.overwritten }

/-- 20_memory.md R51: the byte the engine reads at an offset is the one held there, or one recorded as overwritten since
the accepted START. A host write to the offset's location while BUSY = 1 records the value it replaces, and any other
write records nothing for it; an accepted START empties the record, and no other instruction touches it. The record is
the form the model gives the race (log 15). -/
def Obligations.RacingByteIsOneItHeld : Prop :=
  (∀ (s : State) (i : Nat), s.portByte i = s.messageByte i ∨ s.portByte i ∈ s.messageOverwritten i) ∧
  (∀ (s : State) (i : Nat), s.messageOverwritten i = [] → s.portByte i = s.messageByte i) ∧
  (∀ (s : State) (l : Nat) (b : Byte) (i : Nat), (s.storeByte l b).messageOverwritten i =
    if s.params.msgMap.location i = l ∧ s.phase ≠ 0 then s.messageByte i :: s.messageOverwritten i
    else s.messageOverwritten i) ∧
  (∀ (s : State) (data : Word), s.phase = 0 → s.len.toNat ≤ s.params.maxLen.val →
    ∃ t, exec (.wrCtrlStart data) s = .next t ∧ t.overwritten = [] ∧ ∀ i, t.messageOverwritten i = []) ∧
  ∀ (i : Instr) (s t : State), exec i s = .next t →
    t.overwritten = s.overwritten ∨ ((∃ data, i = .wrCtrlStart data) ∧ t.phase = 1 ∧ t.overwritten = [])

/-- 70_reset_and_hazards.md R155, R156, R157: reset is a step in every state, also while BUSY = 1; it leaves the engine IDLE
with no digest published and with the values R37 gives, and touches neither the message memory nor what the host has
read. -/
def Obligations.ResetStepLeavesIdleEngine : Prop :=
  ∀ (s : State) (rest : List Event), s.agenda = .reset :: rest →
    ∃ t, step s = .next t ∧ t.phase = 0 ∧ t.busy = false ∧ t.done = false ∧ t.err = false ∧ t.errCode = 0 ∧ t.len = 0 ∧
      t.msg = s.msg ∧ t.observed = s.observed ∧ t.params = s.params ∧ t.agenda = rest

/-- The values 10_state.md R37 gives after reset, in the machine's reset state. -/
def Obligations.ResetStateHasSpecifiedValues : Prop :=
  State.reset.phase = 0 ∧ State.reset.busy = false ∧ State.reset.done = false ∧ State.reset.err = false ∧
  State.reset.errCode = 0 ∧ State.reset.lenLo = 0x00000000 ∧ State.reset.lenHi = 0x00000000

/-! ### Host reads -/

/-- 45_host_interface.md R115: KEY 0x00 is RD_CTRL; it yields 0 in every state, and nothing else changes. -/
def Obligations.RdCtrlYieldsZero : Prop :=
  (∀ w : BitVec 39, hostKey w = 0x00 → decode (.hosttxn w) = .ok .rdCtrl) ∧
  ∀ s : State, exec .rdCtrl s = .next { s with observed := s.observed ++ [0x00000000] }

/-- R116: KEY 0x01 is RD_STATUS; with an ERRCODE of 0, 1 or 2, the only ones there are (60_exceptions.md R137), it yields
the Word with BUSY, DONE, ERR and ERRCODE in bits 0, 1, 2 and 7:4 and zeros elsewhere, and nothing else changes; where
the invariants of 10_state.md R36 hold, ERRCODE is one of those and the Word one of five values. -/
def Obligations.RdStatusYieldsStatusWord : Prop :=
  (∀ w : BitVec 39, hostKey w = 0x01 → decode (.hosttxn w) = .ok .rdStatus) ∧
  (∀ s : State, s.errCode.toNat ≤ 2 → ∃ v : Word, exec .rdStatus s = .next { s with observed := s.observed ++ [v] } ∧
    v.getLsbD 0 = (s.phase != 0) ∧ v.getLsbD 1 = s.done ∧ v.getLsbD 2 = s.err ∧ v.getLsbD 3 = false ∧
    v.extractLsb' 4 4 = s.errCode ∧ v.extractLsb' 8 24 = 0) ∧
  ∀ s : State, EngineInv s → ∃ v : Word, exec .rdStatus s = .next { s with observed := s.observed ++ [v] } ∧
    (v = 0x00000000 ∨ v = 0x00000001 ∨ v = 0x00000002 ∨ v = 0x00000014 ∨ v = 0x00000024) ∧
    (s.phase ≠ 0 → v = 0x00000001)

/-- R117, R118: KEY 0x02 and 0x03 are RD_LEN_LO and RD_LEN_HI; they yield the lower and the upper half of LEN, and
nothing else changes. -/
def Obligations.RdLenYieldsHalves : Prop :=
  (∀ w : BitVec 39, hostKey w = 0x02 → decode (.hosttxn w) = .ok .rdLenLo) ∧
  (∀ w : BitVec 39, hostKey w = 0x03 → decode (.hosttxn w) = .ok .rdLenHi) ∧
  ∀ s : State,
    (∃ v : Word, exec .rdLenLo s = .next { s with observed := s.observed ++ [v] } ∧ v.toNat = s.len.toNat % 2 ^ 32) ∧
    (∃ v : Word, exec .rdLenHi s = .next { s with observed := s.observed ++ [v] } ∧ v.toNat = s.len.toNat / 2 ^ 32)

/-- R119: RD_DIGEST i yields H[i] when DONE = 1 and nothing else changes. When DONE = 0 it yields a free value, for every
value of the counter and of the instance that draws, and the counter moves on, so that the next such read draws again
(log 6, log 25). -/
def Obligations.RdDigestYieldsHashWord : Prop :=
  (∀ (w : BitVec 39) (i : BitVec 3), hostKey w = 0x08 + i.setWidth 7 → decode (.hosttxn w) = .ok (.rdDigest i)) ∧
  ∀ (s : State) (i : BitVec 3),
    (s.done = true → exec (.rdDigest i) s = .next { s with observed := s.observed ++ [s.H[i.toNat]'(i.isLt)] }) ∧
    (s.done = false → exec (.rdDigest i) s =
      .next { s with observed := s.observed ++ [Config.digestDraw s.source s.draws], draws := s.draws + 1 })

/-- R120: a read of a reserved index n, 4..7 or 16..63, yields 0 and nothing else changes. -/
def Obligations.RdReservedYieldsZero : Prop :=
  (∀ w : BitVec 39, w.getLsbD 38 = false → (4 ≤ (hostIdx w).toNat ∧ (hostIdx w).toNat ≤ 7) ∨ 16 ≤ (hostIdx w).toNat →
    ∀ s : State, hostStep w s = .next { s with observed := s.observed ++ [0x00000000] }) ∧
  ∀ (n : BitVec 6) (s : State), ∀ i ∈ [Instr.rdRsvdA n, Instr.rdRsvdB n, Instr.rdRsvdC n],
    exec i s = .next { s with observed := s.observed ++ [0x00000000] }

/-! ### Host writes -/

/-- R121: a write to CTRL with DATA[0] = 1, whatever DATA[31:1]: ignored while a computation is in progress; else
rejected with code 1 for LEN ≥ 2^61, then with code 2 for LEN > MAX_LEN; else accepted. Each case says the whole next
state, but for the model's own list of overwritten bytes (log 15). -/
def Obligations.StartIsIgnoredRejectedOrAccepted : Prop :=
  (∀ w : BitVec 39, hostKey w = 0x40 → w.getLsbD 0 = true → decode (.hosttxn w) = .ok (.wrCtrlStart (hostData w))) ∧
  ∀ (s : State) (data : Word),
    (s.phase ≠ 0 → exec (.wrCtrlStart data) s = .next s) ∧
    (s.phase = 0 → 2 ^ 61 ≤ s.len.toNat →
      exec (.wrCtrlStart data) s = .next { s with err := true, errCode := 1, done := false }) ∧
    (s.phase = 0 → s.len.toNat < 2 ^ 61 → s.params.maxLen.val < s.len.toNat →
      exec (.wrCtrlStart data) s = .next { s with err := true, errCode := 2, done := false }) ∧
    (s.phase = 0 → s.len.toNat < 2 ^ 61 → s.len.toNat ≤ s.params.maxLen.val →
      ∃ t, exec (.wrCtrlStart data) s = .next t ∧ t.nblk.toNat = (s.len.toNat + 8) / 64 + 1 ∧
        t = { s with mlen := s.len, nblk := t.nblk, blk := 0, H := IV, done := false, err := false, errCode := 0,
                     phase := 1, overwritten := t.overwritten })

/-- 60_exceptions.md R138: LEN ≥ 2^61 is LEN[63:61] ≠ 0, and a START while phase = IDLE then records code 1 in STATUS. -/
def Obligations.LenOverflowIsTopThreeBits : Prop :=
  ∀ s : State,
    (2 ^ 61 ≤ s.len.toNat ↔ s.len.extractLsb' 61 3 ≠ 0) ∧
    ∀ data : Word, s.phase = 0 → s.len.extractLsb' 61 3 ≠ 0 →
      ∃ t, exec (.wrCtrlStart data) s = .next t ∧ t.statusWord = 0x00000014 ∧
        t = { s with err := t.err, errCode := t.errCode, done := t.done }

/-- R122, R123, R126, R127: a write to CTRL with DATA[0] = 0, to STATUS, to DIGESTi or to a reserved index has no effect,
whatever its DATA. -/
def Obligations.IgnoredWritesChangeNothing : Prop :=
  (∀ w : BitVec 39, w.getLsbD 38 = true →
    (hostIdx w = 0 ∧ w.getLsbD 0 = false) ∨ hostIdx w = 1 ∨ 4 ≤ (hostIdx w).toNat →
    ∀ s : State, hostStep w s = .next s) ∧
  ∀ (n : BitVec 6) (k : BitVec 3) (data : Word) (s : State),
    ∀ i ∈ [Instr.wrCtrlNop data, .wrStatus data, .wrDigest k data, .wrRsvdA n data, .wrRsvdB n data, .wrRsvdC n data],
      exec i s = .next s

/-- R124, R125: WR_LEN_LO and WR_LEN_HI store DATA in their half of LEN, in every phase; the other half, and all else,
is unchanged. An upper half of 0x20000000 or more makes the next START fail with LEN_OVERFLOW. -/
def Obligations.WrLenStoresHalves : Prop :=
  (∀ w : BitVec 39, hostKey w = 0x42 → decode (.hosttxn w) = .ok (.wrLenLo (hostData w))) ∧
  (∀ w : BitVec 39, hostKey w = 0x43 → decode (.hosttxn w) = .ok (.wrLenHi (hostData w))) ∧
  ∀ (s : State) (data : Word),
    (∃ t, exec (.wrLenLo data) s = .next t ∧ t.lenLo = data ∧ t.lenHi = s.lenHi ∧ t = { s with len := t.len }) ∧
    (∃ t, exec (.wrLenHi data) s = .next t ∧ t.lenHi = data ∧ t.lenLo = s.lenLo ∧ t = { s with len := t.len } ∧
      (0x20000000 ≤ data.toNat → 2 ^ 61 ≤ t.len.toNat ∧
        ∀ d : Word, d.getLsbD 0 = true → t.phase = 0 →
          ∃ u, exec (.wrCtrlStart d) t = .next u ∧ u.statusWord = 0x00000014))

/-- R114: no host transaction faults or is refused, in any phase; a read yields one Word to the host and changes no
other state but the count of draws; a write yields none. For RD_STATUS the premise is that ERRCODE is one of the codes
there are, as in every state of the invariants (log 21). -/
def Obligations.HostTransactionsAlwaysComplete : Prop :=
  ∀ (i : Instr) (s : State), i.isHost = true → (i = .rdStatus → s.errCode.toNat ≤ 2) → ∃ t, exec i s = .next t ∧
    (i.isRead = true → ∃ v : Word, t = { s with observed := s.observed ++ [v], draws := t.draws }) ∧
    (i.isRead = false → t.observed = s.observed ∧ t.draws = s.draws)

/-- The writers of 10_state.md R13's table, over all instructions: each element of the state is changed by the
instructions the table names and by no other; no instruction writes the message memory (20_memory.md R38). -/
def Obligations.OnlyTheNamedWritersWrite : Prop :=
  ∀ (i : Instr) (s t : State), exec i s = .next t →
    (t.H ≠ s.H → (∃ d, i = .wrCtrlStart d) ∨ i = .accum) ∧
    (t.ws ≠ s.ws → i = .load ∨ i = .round) ∧
    (t.W ≠ s.W → i = .load ∨ i = .expand) ∧
    (t.phase ≠ s.phase → (∃ d, i = .wrCtrlStart d) ∨ i = .load ∨ i = .expand ∨ i = .round ∨ i = .accum) ∧
    (t.t ≠ s.t → i = .load ∨ i = .expand ∨ i = .round) ∧
    (t.blk ≠ s.blk → (∃ d, i = .wrCtrlStart d) ∨ i = .accum) ∧
    (t.nblk ≠ s.nblk ∨ t.mlen ≠ s.mlen → ∃ d, i = .wrCtrlStart d) ∧
    (t.len ≠ s.len → ∃ d, i = .wrLenLo d ∨ i = .wrLenHi d) ∧
    (t.done ≠ s.done → (∃ d, i = .wrCtrlStart d) ∨ i = .accum) ∧
    (t.err ≠ s.err ∨ t.errCode ≠ s.errCode → ∃ d, i = .wrCtrlStart d) ∧
    (t.observed ≠ s.observed → i.isRead = true) ∧
    t.msg = s.msg ∧ t.params = s.params ∧ t.agenda = s.agenda ∧ t.source = s.source

/-- 30_encoding.md R64, R65: the lines of SETLEN and START are the transactions that write LEN and start; a READDIGEST line
is the read of its digest word, and READDIGEST is the eight of them in index order; the transaction of WAIT and of CHECK
is the read of STATUS; SETLEN n leaves LEN = n; WAIT goes on exactly while BUSY = 1, and CHECK passes exactly when
DONE = 1 and ERR = 0. The loop of WAIT is the host's (log 23). -/
def Obligations.PseudoInstructionsExpand : Prop :=
  (∀ (r : Reg) (v : Word), regLegal r = true →
    decode (.hosttxn (assembleLine (.wr r v))) = .ok (decodeWrite (regIndex r) v) ∧
    decode (.hosttxn (assembleLine (.rd r))) = .ok (decodeRead (regIndex r))) ∧
  asmStart.map assembleLine = [0x4000000001] ∧
  assembleLine asmPoll = 0x0100000000 ∧ asmCheck.map assembleLine = [0x0100000000] ∧
  asmReadDigest.map assembleLine =
    [0x0800000000, 0x0900000000, 0x0a00000000, 0x0b00000000, 0x0c00000000, 0x0d00000000, 0x0e00000000, 0x0f00000000] ∧
  (∀ n : Len64, asmHashStart n = asmSetLen n ++ asmStart) ∧ asmHashFinish = asmCheck ++ asmReadDigest ∧
  (∀ i : BitVec 3, decode (.hosttxn (assembleLine (.rd (.digest i)))) = .ok (.rdDigest i)) ∧
  (∀ (s : State) (n : Len64) (rest : List Event), s.agenda = lineEvents (asmSetLen n) ++ rest →
    core.run 2 s = .next { s with len := n, agenda := rest }) ∧
  ∀ s : State, waitAgain s.statusWord = s.busy ∧ (checkPasses s.statusWord = true ↔ s.done = true ∧ s.err = false)

/-! ### Sequencer micro-steps -/

/-- 46_sequencer.md R129: IDLE changes nothing; with the engine next in phase IDLE, the machine's step leaves everything but
the event as it is (that this is a step at all is the model's choice, log 20). -/
def Obligations.IdleChangesNothing : Prop :=
  (∀ s : State, exec .idle s = .next s) ∧
  ∀ s : State, EngineNext s → s.phase = 0 → step s = .next { s with agenda := s.agenda.tail }

/-- R130: LOAD, for a block of the padded message of a length the padder accepts, writes W[0..15] with the block's words,
big-endian, and a..h with H, sets t to 16 and the phase to EXPAND; nothing else changes but the count of draws. The
block's bytes are PadByte(64 × blk + n). -/
def Obligations.LoadDecodesTheBlock : Prop :=
  ∀ s : State, s.mlen.toNat < 2 ^ 61 → s.blk.toNat < s.nblk.toNat →
    ∃ t, exec .load s = .next t ∧
      (∀ (i : Nat) (h : i < 16),
        (t.W[i]).toNat = beNat ((List.range 4).map fun j =>
          padByte s.mlen.toNat s.nblk.toNat s.memRead (64 * s.blk.toNat + (4 * i + j)))) ∧
      (∀ (i : Nat) (h : i < 64), 16 ≤ i → t.W[i] = s.W[i]) ∧
      t.ws = ⟨s.H[0], s.H[1], s.H[2], s.H[3], s.H[4], s.H[5], s.H[6], s.H[7]⟩ ∧
      t = { s with W := t.W, ws := t.ws, t := 16, phase := 2, draws := t.draws }

/-- Where LOAD stops, in states no run reaches, and that it stops nowhere else: a length of 2^61 bytes or more is refused,
a block past the padded message faults, and in range LOAD completes; the padding assertion never fires
(60_exceptions.md R142). The stops are the model's choice (log 17). -/
def Obligations.LoadStopsOnlyOutOfRange : Prop :=
  ∀ s : State,
    (2 ^ 61 ≤ s.mlen.toNat → exec .load s = .refused .oversizedMessage) ∧
    (s.mlen.toNat < 2 ^ 61 → s.nblk.toNat ≤ s.blk.toNat → exec .load s = .fault .blockIndexOutOfRange) ∧
    (s.mlen.toNat < 2 ^ 61 → s.blk.toNat < s.nblk.toNat → ∃ t, exec .load s = .next t) ∧
    exec .load s ≠ .fault .paddingAssertion

/-- R131: EXPAND, for 16 ≤ t ≤ 63, writes W[t] with the recurrence's sum, mod 2^32, and no other word;
then t counts on, or after t = 63 is 0 with the phase ROUND; nothing else changes. -/
def Obligations.ExpandComputesOneWord : Prop :=
  ∀ (s : State) (lo : 16 ≤ s.t.toNat),
    ∃ t, exec .expand s = .next t ∧
      t.W[s.t.toNat]'(s.t.isLt) =
        ssig1 (s.W[s.t.toNat - 2]'(by omega)) + s.W[s.t.toNat - 7]'(by omega) +
          ssig0 (s.W[s.t.toNat - 15]'(by omega)) + s.W[s.t.toNat - 16]'(by omega) ∧
      (∀ (i : Nat) (h : i < 64), i ≠ s.t.toNat → t.W[i] = s.W[i]) ∧
      (s.t.toNat = 63 → t.t = 0 ∧ t.phase = 3) ∧
      (s.t.toNat < 63 → t.t.toNat = s.t.toNat + 1 ∧ t.phase = s.phase) ∧
      t = { s with W := t.W, t := t.t, phase := t.phase }

/-- EXPAND at an index below 16, which no run reaches (10_state.md R36), faults; the model's choice (log 18). -/
def Obligations.ExpandBelowSixteenFaults : Prop :=
  ∀ s : State, s.t.toNat < 16 → exec .expand s = .fault .scheduleIndexOutOfRange

/-- R132 and 43_compression.md R102: ROUND computes T1 and T2 from the values before the step, mod 2^32, and shifts the
working state; then t counts on, or at t = 63 stays with the phase ACCUM; nothing else changes. -/
def Obligations.RoundRewritesWorkingState : Prop :=
  ∀ s : State,
    let T1 := s.ws.h + bsig1 s.ws.e + ch s.ws.e s.ws.f s.ws.g + K[s.t.toNat]'(s.t.isLt) + s.W[s.t.toNat]'(s.t.isLt)
    let T2 := bsig0 s.ws.a + maj s.ws.a s.ws.b s.ws.c
    ∃ t, exec .round s = .next t ∧
      t.ws = ⟨T1 + T2, s.ws.a, s.ws.b, s.ws.c, s.ws.d + T1, s.ws.e, s.ws.f, s.ws.g⟩ ∧
      (s.t.toNat = 63 → t.t = s.t ∧ t.phase = 4) ∧
      (s.t.toNat < 63 → t.t.toNat = s.t.toNat + 1 ∧ t.phase = s.phase) ∧
      t = { s with ws := t.ws, t := t.t, phase := t.phase }

/-- R133 and 43_compression.md R105: ACCUM adds the working state into H, each word mod 2^32, and counts blk on; on the
last block the phase is IDLE and DONE is 1, else the phase is LOAD and DONE is as before; nothing else changes. -/
def Obligations.AccumAddsIntoHash : Prop :=
  ∀ s : State,
    ∃ t, exec .accum s = .next t ∧
      t.H = #v[s.H[0] + s.ws.a, s.H[1] + s.ws.b, s.H[2] + s.ws.c, s.H[3] + s.ws.d,
               s.H[4] + s.ws.e, s.H[5] + s.ws.f, s.H[6] + s.ws.g, s.H[7] + s.ws.h] ∧
      t.blk = s.blk + 1 ∧
      (s.blk.toNat + 1 = s.nblk.toNat → t.phase = 0 ∧ t.done = true) ∧
      (s.blk.toNat + 1 ≠ s.nblk.toNat → t.phase = 1 ∧ t.done = s.done) ∧
      t = { s with H := t.H, phase := t.phase, done := t.done, blk := t.blk }

/-! ### Word operations -/

/-- 40_word_ops.md R67, R68: a sum of Words, in any order and any grouping, is the exact sum mod 2^32. -/
def Obligations.WordSumsWrapInAnyOrder : Prop :=
  (∀ a b : Word, (add32 a b).toNat = (a.toNat + b.toNat) % 2 ^ 32) ∧
  (∀ xs : List Word, (sumWords xs).toNat = (xs.map fun x => x.toNat).sum % 2 ^ 32) ∧
  (∀ xs ys : List Word, sumWords (xs ++ ys) = add32 (sumWords xs) (sumWords ys)) ∧
  ∀ xs ys : List Word, xs.Perm ys → sumWords xs = sumWords ys

/-- R69: for a shift by 1 to 31, bit j of ROTR(x, n) is bit (j + n) mod 32 of x. -/
def Obligations.RotrMovesBits : Prop :=
  ∀ (x : Word) (n j : Nat), 0 < n → n < 32 → j < 32 → (rotr x n).getLsbD j = x.getLsbD ((j + n) % 32)

/-- R72, R73, R74, R75: each bit of the four sigma functions, as the XOR of the rotated, or shifted, bits of x. -/
def Obligations.SigmaBitsAreXors : Prop :=
  ∀ (x : Word) (j : Nat), j < 32 →
    (ssig0 x).getLsbD j =
      (x.getLsbD ((j + 7) % 32) ^^ x.getLsbD ((j + 18) % 32) ^^ (decide (j + 3 < 32) && x.getLsbD (j + 3))) ∧
    (ssig1 x).getLsbD j =
      (x.getLsbD ((j + 17) % 32) ^^ x.getLsbD ((j + 19) % 32) ^^ (decide (j + 10 < 32) && x.getLsbD (j + 10))) ∧
    (bsig0 x).getLsbD j =
      (x.getLsbD ((j + 2) % 32) ^^ x.getLsbD ((j + 13) % 32) ^^ x.getLsbD ((j + 22) % 32)) ∧
    (bsig1 x).getLsbD j =
      (x.getLsbD ((j + 6) % 32) ^^ x.getLsbD ((j + 11) % 32) ^^ x.getLsbD ((j + 25) % 32))

/-- R76, R77: CH takes y's bit where x has a 1 and z's where x has a 0; MAJ is 1 where at least two of the three are. -/
def Obligations.ChChoosesAndMajVotes : Prop :=
  ∀ (x y z : Word) (j : Nat), j < 32 →
    (ch x y z).getLsbD j = (if x.getLsbD j then y.getLsbD j else z.getLsbD j) ∧
    ((maj x y z).getLsbD j = true ↔
      2 ≤ (x.getLsbD j).toNat + (y.getLsbD j).toNat + (z.getLsbD j).toNat)

/-- R78, R79, R80: the byte converters are big-endian, and BYTES32 and BE32 are inverses. -/
def Obligations.ByteConvertersAreBigEndian : Prop :=
  (∀ b0 b1 b2 b3 : Byte, (be32 b0 b1 b2 b3).toNat = beNat [b0, b1, b2, b3]) ∧
  (∀ w : Word, be32 (bytes32 w 0) (bytes32 w 1) (bytes32 w 2) (bytes32 w 3) = w) ∧
  (∀ (w : Word) (j : Nat), j < 4 → bytes32 w j = w.extractLsb' (24 - 8 * j) 8) ∧
  (∀ (v : Len64) (i : Nat), i < 8 → bytes64 v i = v.extractLsb' (56 - 8 * i) 8) ∧
  (∀ v : Len64, beNat ((List.range 8).map (bytes64 v)) = v.toNat)

/-! ### The ROM -/

/-- 10_state.md R18, R19: K[t] and IV[i] are the first 32 bits of the fractional part of the cube root and the square root
of the (t+1)-th and the (i+1)-th prime: the last 32 bits of the root times 2^32, rounded down. -/
def Obligations.RomHoldsRootFractions : Prop :=
  (∀ (t : Nat) (h : t < 64), ∃ p r : Nat, p.Prime ∧ Nat.count Nat.Prime p = t ∧
    r ^ 3 ≤ p * 2 ^ 96 ∧ p * 2 ^ 96 < (r + 1) ^ 3 ∧ K[t].toNat = r % 2 ^ 32) ∧
  (∀ (i : Nat) (h : i < 8), ∃ p r : Nat, p.Prime ∧ Nat.count Nat.Prime p = i ∧
    r ^ 2 ≤ p * 2 ^ 64 ∧ p * 2 ^ 64 < (r + 1) ^ 2 ∧ IV[i].toNat = r % 2 ^ 32)

/-! ### Padding and segmentation -/

/-- 41_padding.md R85: the padding arithmetic for every byte-aligned bit length L, (1) for every L. -/
def Obligations.PaddingArithmeticHolds : Prop :=
  (∀ L : Nat, (L + 1 + padZeroBits L) % 512 = 448) ∧
  ∀ L : Nat, L % 8 = 0 →
    7 ≤ padZeroBits L ∧ padZeroBits L % 8 = 7 ∧ (padZeroBits L - 7) % 8 = 0 ∧ padZeroBits L ≤ 511 ∧
    padRemainder L ≠ 448 ∧
    (padRemainder L ≤ 448 → padRemainder L ≤ 441 ∧ padZeroBits L ≤ 447) ∧
    (448 < padRemainder L →
      449 ≤ padRemainder L ∧ padRemainder L ≤ 505 ∧ padRemainder L % 8 = 1 ∧ 455 ≤ padZeroBits L)

/-- R87, R88: the padded length is the least multiple of 64 that is at least mlen + 9, and 64 times the block count. -/
def Obligations.PaddedLengthIsLeastMultiple : Prop :=
  ∀ M : List Byte,
    (paddedMessage M).length = M.length + 1 + (padZeroBits (8 * M.length) - 7) / 8 + 8 ∧
    (paddedMessage M).length = 64 * ((M.length + 8) / 64 + 1) ∧
    (paddedMessage M).length = 64 * blockCount M.length ∧
    M.length + 9 ≤ (paddedMessage M).length ∧
    ∀ m : Nat, M.length + 9 ≤ 64 * m → (paddedMessage M).length ≤ 64 * m

/-- R89: PadByte(i), with the message port reading M, is byte i of the padded message, for every i below 64 × nblk. -/
def Obligations.PadByteIsPaddedMessage : Prop :=
  ∀ (M : List Byte) (i : Nat), i < 64 * blockCount M.length →
    (paddedMessage M)[i]? = some (padByte M.length (blockCount M.length) (fun k h => M[k]) i)

/-- R90: the padded message is a whole number of blocks long, and its last 8 bytes are the bit length, big-endian. -/
def Obligations.LengthRoundTrip : Prop :=
  ∀ M : List Byte, M.length < 2 ^ 61 →
    (paddedMessage M).length % 64 = 0 ∧
    beNat ((paddedMessage M).drop ((paddedMessage M).length - 8)) = 8 * M.length

/-- R94: the blocks before block q = floor(n / 64) are message bytes; block q begins with the s = n mod 64 last ones and
the 0x80 byte; if s ≤ 55 it is the last block and ends with the length field; if s ≥ 56 it ends with zeros, and the last
block is block q + 1, 56 zero bytes and the length field. -/
def Obligations.BlockContents : Prop :=
  ∀ (M : List Byte) (q r : Nat), M.length = 64 * q + r → r < 64 →
    (∀ (j n : Nat) (h : n < 64), j < q → some (messageBlock M j)[n] = M[64 * j + n]?) ∧
    (∀ (n : Nat) (h : n < 64), n < r → some (messageBlock M q)[n] = M[64 * q + n]?) ∧
    (messageBlock M q)[r]? = some 0x80 ∧
    (r ≤ 55 → blockCount M.length = q + 1 ∧
      (∀ (n : Nat) (h : n < 64), r < n → n < 56 → (messageBlock M q)[n] = 0) ∧
      ((messageBlock M q).toList.drop 56 = lengthField (8 * M.length))) ∧
    (56 ≤ r → blockCount M.length = q + 2 ∧
      (∀ (n : Nat) (h : n < 64), r < n → (messageBlock M q)[n] = 0) ∧
      (∀ (n : Nat) (h : n < 64), n < 56 → (messageBlock M (q + 1))[n] = 0) ∧
      ((messageBlock M (q + 1)).toList.drop 56 = lengthField (8 * M.length)))

/-- 20_memory.md R40: over the blocks of one computation the offsets read are 0, 1, …, mlen − 1, each exactly once, offset
i in the LOAD of block floor(i / 64). PadByte reads the port at i exactly when i is below mlen; LOAD applies it to the 64
indices of block blk, and the byte it reads at each of these offsets is the one that stands in W after it. -/
def Obligations.EachOffsetIsReadOnce : Prop :=
  (∀ n : Nat, ((List.range (blockCount n)).map (loadOffsets n)).flatten = List.range n ∧
    ∀ j i : Nat, i ∈ loadOffsets n j ↔ i < n ∧ i / 64 = j) ∧
  (∀ (n N : Nat) (read : (i : Nat) → i < n → Byte) (i : Nat) (h : i < n), padByte n N read i = read i h) ∧
  (∀ (n N : Nat) (read read' : (i : Nat) → i < n → Byte) (i : Nat), n ≤ i → padByte n N read i = padByte n N read' i) ∧
  (∀ (s : State) (k : Nat) (h : k < 64),
    s.currentBlock[k] = padByte s.mlen.toNat s.nblk.toNat s.memRead (64 * s.blk.toNat + k)) ∧
  ∀ s : State, s.mlen.toNat < 2 ^ 61 → s.blk.toNat < s.nblk.toNat →
    ∃ t, exec .load s = .next t ∧ ∀ i ∈ loadOffsets s.mlen.toNat s.blk.toNat,
      bytes32 (t.W[i % 64 / 4]'(by omega)) (i % 4) = s.portByte i

/-- R40: LOAD depends on no message byte but those it reads: two states that differ only in the message memory, and
agree at the offsets of the block below mlen, load the same words. So the memory beyond mlen never matters. -/
def Obligations.LoadDependsOnReadOffsetsOnly : Prop :=
  ∀ (s : State) (m : Memory) (o : List Host.Cell) (t : State),
    (∀ i ∈ loadOffsets s.mlen.toNat s.blk.toNat, ({ s with msg := m, overwritten := o } : State).portByte i = s.portByte i) →
    exec .load s = .next t →
    exec .load { s with msg := m, overwritten := o } = .next { t with msg := m, overwritten := o }

/-! ### Compression and output -/

/-- 42_schedule.md R99: keeping a 16-word window of the schedule, computed as the rounds go, gives the same H as the
64-entry schedule, for every hash state and block. -/
def Obligations.WindowedScheduleGivesSameHash : Prop :=
  ∀ (H : Vector Word 8) (B : Vector Byte 64), compressWindow H B = compress H B

/-- 42_schedule.md R95, R96: the schedule of a block is the one sequence that begins with the block's 16 big-endian words
and satisfies the recurrence at every t from 16 to 63. -/
def Obligations.ScheduleSatisfiesRecurrence : Prop :=
  ∀ (B : Vector Byte 64) (W : Vector Word 64),
    W = schedule B ↔
      (∀ (i : Nat) (h : i < 16), (W[i]).toNat = beNat [B[4 * i], B[4 * i + 1], B[4 * i + 2], B[4 * i + 3]]) ∧
      ∀ (t : Nat) (lo : 16 ≤ t) (hi : t < 64), W[t] = ssig1 W[t - 2] + W[t - 7] + ssig0 W[t - 15] + W[t - 16]

/-- 44_output.md R109: digest byte 4i + j is bits 31 − 8j to 24 − 8j of H[i]. -/
def Obligations.DigestBytesAreBigEndian : Prop :=
  ∀ (H : Vector Word 8) (i j : Nat) (hi : i < 8) (hj : j < 4),
    (encodeDigest H)[4 * i + j] = (H[i]).extractLsb' (24 - 8 * j) 8

/-! ### The whole machine -/

/-- The invariants of 10_state.md R36 hold in the reset state. -/
def Obligations.InvariantsHoldAtReset : Prop := EngineInv State.reset

/-- Every step of the machine keeps the invariants of R36, whichever agent acts. -/
def Obligations.StepKeepsInvariants : Prop :=
  ∀ s t : State, EngineInv s → step s = .next t → EngineInv t

/-- Every step keeps the message memory's canonical form. -/
def Obligations.StepKeepsMemoryCanonical : Prop :=
  ∀ s t : State, s.msg.wf → step s = .next t → t.msg.wf

/-- 46_sequencer.md R128: a busy engine is never stuck. With the engine next, the step completes; and it is the micro-step
that R128 names, never one of the host or of reset: LEN, the message memory and what the host has read stay. In phase
IDLE, where R129 gives the engine no step, that it completes and changes only the agenda is the model's choice (log 20). -/
def Obligations.BusyEngineIsNeverStuck : Prop :=
  ∀ s : State, EngineInv s → EngineNext s → ∃ t, step s = .next t ∧
    t.len = s.len ∧ t.mlen = s.mlen ∧ t.nblk = s.nblk ∧ t.msg = s.msg ∧ t.observed = s.observed ∧
    (s.phase = 0 → t = { s with agenda := s.agenda.tail })

/-- R134: each engine step of a busy engine leaves one step fewer of the 114 × nblk. -/
def Obligations.EngineStepCountsDown : Prop :=
  ∀ s : State, EngineInv s → EngineNext s → s.phase ≠ 0 →
    ∃ t, step s = .next t ∧ stepsLeft t + 1 = stepsLeft s ∧ (t.phase = 0 ↔ stepsLeft t = 0) ∧ (t.phase = 0 → t.done = true)

/-- R134, R135: after an accepted START with no other event pending, the k-th engine step for k below 114 × nblk is the
one the fixed sequence LOAD, EXPAND × 48, ROUND × 64, ACCUM has at k mod 114, in block floor(k / 114); after exactly
114 × nblk steps the phase is IDLE and DONE = 1. That the engine goes on alone when no event is pending is how the model
gives the fairness of 70_reset_and_hazards.md R167 (log 1). -/
def Obligations.ComputationFollowsFixedSequence : Prop :=
  ∀ (s u : State) (data : Word), s.phase = 0 → s.len.toNat ≤ s.params.maxLen.val → s.agenda = [] →
    exec (.wrCtrlStart data) s = .next u →
    (∀ k, k < 114 * u.nblk.toNat → ∃ t : State, core.run k u = .next t ∧ t.phase = phaseOfStep (k % 114) ∧ t.blk.toNat = k / 114) ∧
    ∃ t : State, core.run (114 * u.nblk.toNat) u = .next t ∧ t.phase = 0 ∧ t.done = true

/-- 44_output.md R111, its beginning: an accepted START with the message M in the message memory begins a computation of M's
digest. -/
def Obligations.AcceptedStartBeginsComputing : Prop :=
  ∀ (M : List Byte) (s : State) (data : Word), s.phase = 0 → s.len.toNat = M.length → M.length ≤ s.params.maxLen.val →
    (∀ (i : Nat) (h : i < M.length), s.messageByte i = M[i]) →
    ∃ t, exec (.wrCtrlStart data) s = .next t ∧ Computing M t ∧ t.phase = 1

/-- R111, its middle: while the engine computes M's digest, every atomic step that neither resets it nor writes where a
message byte below mlen lies keeps the computation right, or finishes it with the digest of M published. Host transactions of every
kind, LEN writes and further STARTs included, may come between the engine's steps. -/
def Obligations.UndisturbedStepKeepsComputing : Prop :=
  ∀ (M : List Byte) (s t : State), Computing M s → (∀ e ∈ s.agenda.head?, Undisturbed s.params.msgMap M.length e) →
    step s = .next t → Computing M t ∨ Published M t

/-- R111, its end: once M's digest is published, every step but a START transaction and reset leaves it published, and
the eight DIGEST reads give the words whose bytes are SHA256(M). -/
def Obligations.PublishedDigestStays : Prop :=
  ∀ (M : List Byte) (s t : State), Published M s →
    (∀ (i : BitVec 3), exec (.rdDigest i) s = .next { s with observed := s.observed ++ [s.H[i.toNat]'(i.isLt)] }) ∧
    encodeDigest s.H = sha256 M ∧
    (step s = .next t →
      Published M t ∨ (∃ rest, s.agenda = .reset :: rest) ∨
      (∃ w rest, s.agenda = .host w :: rest ∧ hostKey w = 0x40 ∧ w.getLsbD 0 = true) ∨
      (∃ acc rest, s.agenda = .bus acc :: rest ∧ acc.addr = s.params.regBase ∧ acc.write = true ∧ acc.data.getLsbD 0 = true))

/-- R111: the engine computes SHA-256. From any idle state with the message M in the message memory, its length in LEN, not
above MAX_LEN, and a START transaction the only event pending, the machine is after 1 + 114 × nblk steps IDLE with
DONE = 1, and the bytes of DIGEST0..7 are SHA256(M). By R112 nothing else of the state matters. That the engine goes on
alone once the START is taken is how the model gives the fairness of 70_reset_and_hazards.md R167 (log 1). -/
def Obligations.EngineComputesSha256 : Prop :=
  ∀ (M : List Byte) (s : State), s.phase = 0 → s.len.toNat = M.length → M.length ≤ s.params.maxLen.val →
    (∀ (i : Nat) (h : i < M.length), s.messageByte i = M[i]) → s.agenda = [.host 0x4000000001] →
    ∃ t : State, core.run (1 + 114 * blockCount M.length) s = .next t ∧ t.phase = 0 ∧ t.done = true ∧
      encodeDigest t.H = sha256 M

/-- 60_exceptions.md R152: the engines of a platform are independent: a step of one leaves every other instance as it was,
and is that instance's own step. -/
def Obligations.EngineInstancesAreIndependent : Prop :=
  ∀ (p : Platform) (k : Nat) (s t : State), p[k]? = some s → step s = .next t →
    ∃ p', p.stepAt k = some (.next p') ∧ p'[k]? = some t ∧ p'.length = p.length ∧ ∀ j, j ≠ k → p'[j]? = p[j]?

/-! ### Reserved error codes and platforms -/

/-- 60_exceptions.md R137: the ERRCODE values 3..15 are never produced. No state of the invariants has one; a read of
STATUS that found one faults, as 93_implementation_defined.md I7 says (where it is found is the model's choice, log 21). -/
def Obligations.ReservedErrorCodeFaults : Prop :=
  (∀ s : State, EngineInv s → s.errCode.toNat ≤ 2) ∧
  ∀ s : State, 3 ≤ s.errCode.toNat → exec .rdStatus s = .fault (.reservedErrorCode s.errCode)

/-- 00_scope.md R6, 60_exceptions.md R152: a platform of NUM_ENGINES ≥ 1 instances with legal parameters is legal after
reset, each instance idle; and every step of an instance keeps it legal, with the same number of instances and the same
parameters. That each instance draws its free values from a source of its own is the model's form (log 25). -/
def Obligations.PlatformStaysLegal : Prop :=
  (∀ (n : NumEngines) (params : Nat → Params), (∀ k < n.val, (params k).Legal) →
    (Platform.powerOn n params).Legal ∧ (Platform.powerOn n params).length = n.val ∧
    (∀ k < n.val, ∃ s, (Platform.powerOn n params)[k]? = some s ∧ s.params = params k) ∧
    ∀ s ∈ Platform.powerOn n params, EngineInv s ∧ s.phase = 0) ∧
  ∀ (p p' : Platform) (k : Nat), p.Legal → p.stepAt k = some (.next p') →
    p'.Legal ∧ p'.length = p.length ∧ (p'.map fun s => s.params) = p.map fun s => s.params
end

