-- ==== Sys2Proof/Laws/Datapath.lean ====
section
/-! SUPPORT. The small lemmas of the word operations, the padder, the segmenter, the schedule and the rounds. -/

namespace Sys2Proof.Machine

/-! ### Word operations -/

theorem add32_eq (a b : Word) : add32 a b = a + b := by
  apply BitVec.eq_of_toNat_eq; simp [add32]

theorem foldl_add32_toNat (xs : List Word) (x : Word) :
    (xs.foldl add32 x).toNat = (x.toNat + (xs.map fun x => x.toNat).sum) % 2 ^ 32 := by
  induction xs generalizing x with
  | nil => have := x.isLt; simp; omega
  | cons y ys ih =>
    simp only [List.foldl_cons, ih, List.map_cons, List.sum_cons, add32_eq, BitVec.toNat_add]; omega

theorem sumWords_four (a b c d : Word) : sumWords [a, b, c, d] = a + b + c + d := by
  simp [sumWords, add32_eq]

theorem sumWords_five (a b c d e : Word) : sumWords [a, b, c, d, e] = a + b + c + d + e := by
  simp [sumWords, add32_eq]

/-- BE32 joins disjoint bits, so its "or" is a sum. -/
theorem be32_eq_add (b0 b1 b2 b3 : Byte) : be32 b0 b1 b2 b3 =
    b0.setWidth 32 <<< 24 + b1.setWidth 32 <<< 16 + b2.setWidth 32 <<< 8 + b3.setWidth 32 := by
  have k1 : b0.setWidth 32 <<< 24 &&& b1.setWidth 32 <<< 16 = 0#32 := by
    apply BitVec.eq_of_getLsbD_eq; intro i hi
    by_cases c : i < 24
    · simp [c]
    · simp [BitVec.getLsbD_of_ge b1 (i - 16) (by omega)]
  have k2 : (b0.setWidth 32 <<< 24 ||| b1.setWidth 32 <<< 16) &&& b2.setWidth 32 <<< 8 = 0#32 := by
    apply BitVec.eq_of_getLsbD_eq; intro i hi
    by_cases c : i < 16
    · simp [c, show i < 24 by omega]
    · simp [BitVec.getLsbD_of_ge b2 (i - 8) (by omega)]
  have k3 : (b0.setWidth 32 <<< 24 ||| b1.setWidth 32 <<< 16 ||| b2.setWidth 32 <<< 8) &&& b3.setWidth 32 = 0#32 := by
    apply BitVec.eq_of_getLsbD_eq; intro i hi
    by_cases c : i < 8
    · simp [c, show i < 24 by omega, show i < 16 by omega]
    · simp [BitVec.getLsbD_of_ge b3 i (by omega)]
  rw [be32, ← BitVec.add_eq_or_of_and_eq_zero _ _ k3, ← BitVec.add_eq_or_of_and_eq_zero _ _ k2,
    ← BitVec.add_eq_or_of_and_eq_zero _ _ k1]

/-! ### Padding -/

theorem padZeroBytes_eq (n : Nat) : n + 1 + padZeroBytes n + 8 = 64 * ((n + 8) / 64 + 1) := by
  unfold padZeroBytes padZeroBits padRemainder; split <;> omega

theorem length_lengthField (L : Nat) : (lengthField L).length = 8 := by simp [lengthField]

theorem length_paddedMessage (M : List Byte) :
    (paddedMessage M).length = M.length + 1 + padZeroBytes M.length + 8 := by
  simp [paddedMessage, length_lengthField]; omega

theorem getElem?_lengthField (L i : Nat) (h : i < 8) : (lengthField L)[i]? = some (bytes64 (BitVec.ofNat 64 L) i) := by
  simp [lengthField, h]

/-- The padding assertion of 60_exceptions.md R142 holds for every byte length. -/
theorem paddingAssertionHolds_bytes (n : Nat) : paddingAssertionHolds (8 * n) = true := by
  have h : 7 ≤ padZeroBits (8 * n) ∧ padZeroBits (8 * n) % 8 = 7 := by
    unfold padZeroBits padRemainder; split <;> omega
  simp [paddingAssertionHolds, h]

theorem blockCount_toNat (n : Nat) (h : n < 2 ^ 61) : (BitVec.ofNat 64 (blockCount n)).toNat = blockCount n := by
  simp only [blockCount, BitVec.toNat_ofNat]; omega

theorem getElem_messageBlock (M : List Byte) (j n : Nat) (h : n < 64) :
    (messageBlock M j)[n] = ((paddedMessage M)[64 * j + n]?).getD 0 := by
  simp [messageBlock]

theorem mem_loadOffsets (n j i : Nat) : i ∈ loadOffsets n j → i < n ∧ 64 * j ≤ i ∧ i < 64 * j + 64 := by
  simp only [loadOffsets, List.mem_filter, List.mem_map, List.mem_range, decide_eq_true_eq]
  rintro ⟨⟨k, hk, rfl⟩, h⟩; omega

/-! ### The schedule -/

theorem decodeBlock_low (B : Vector Byte 64) (W : Vector Word 64) (i : Nat) (h : i < 16) :
    (decodeBlock B W)[i] = blockWord B i h := by
  simp [decodeBlock, h]

theorem decodeBlock_high (B : Vector Byte 64) (W : Vector Word 64) (i : Nat) (h : i < 64) (h' : 16 ≤ i) :
    (decodeBlock B W)[i] = W[i] := by
  simp [decodeBlock, show ¬ i < 16 by omega]

theorem expandWord_same (W : Vector Word 64) (t : Nat) (lo : 16 ≤ t) (hi : t < 64) :
    (expandWord W t lo hi)[t] = scheduleWord W t lo hi := by
  simp [expandWord]

theorem expandWord_other (W : Vector Word 64) (t : Nat) (lo : 16 ≤ t) (hi : t < 64) (i : Nat) (h : i < 64)
    (hne : i ≠ t) : (expandWord W t lo hi)[i] = W[i] := by
  simp [expandWord, Vector.getElem_set_ne _ _ hne.symm]

/-- The recurrence reads only earlier words. -/
theorem scheduleWord_congr (W V : Vector Word 64) (t : Nat) (lo : 16 ≤ t) (hi : t < 64)
    (e : ∀ i (h : i < 64), i < t → W[i] = V[i]) : scheduleWord W t lo hi = scheduleWord V t lo hi := by
  simp only [scheduleWord, e _ _ (show t - 2 < t by omega), e _ _ (show t - 7 < t by omega),
    e _ _ (show t - 15 < t by omega), e _ _ (show t - 16 < t by omega)]

theorem expandFirst_succ (W : Vector Word 64) (k : Nat) (h : 16 + k < 64) :
    expandFirst W (k + 1) = expandWord (expandFirst W k) (16 + k) (by omega) h := by
  conv_lhs => unfold expandFirst
  rw [dif_pos h]

/-- Expansion k writes W[16 + k] and no other word. -/
theorem expandFirst_other (W : Vector Word 64) (k i : Nat) (h : i < 64) (hi : i < 16 + k) :
    (expandFirst W (k + 1))[i] = (expandFirst W k)[i] := by
  conv_lhs => unfold expandFirst
  split
  · exact expandWord_other _ _ _ _ _ _ (by omega)
  · rfl

/-- The words that the first k expansions left are left by all the later ones. -/
theorem expandFirst_stable (W : Vector Word 64) (k j i : Nat) (h : i < 64) (hi : i < 16 + k) (hkj : k ≤ j) :
    (expandFirst W j)[i] = (expandFirst W k)[i] := by
  induction j with
  | zero =>
    obtain rfl : k = 0 := by omega
    rfl
  | succ j ih =>
    by_cases e : k = j + 1
    · subst e; rfl
    · rw [expandFirst_other _ _ _ h (by omega), ih (by omega)]

theorem schedule_low (B : Vector Byte 64) (i : Nat) (h : i < 16) : (schedule B)[i] = blockWord B i h := by
  rw [schedule, expandFirst_stable _ 0 48 _ (by omega) (by omega) (by omega)]
  exact decodeBlock_low _ _ _ h

theorem schedule_high (B : Vector Byte 64) (t : Nat) (lo : 16 ≤ t) (hi : t < 64) :
    (schedule B)[t] = scheduleWord (schedule B) t lo hi := by
  obtain ⟨k, rfl⟩ : ∃ k, t = 16 + k := ⟨t - 16, by omega⟩
  unfold schedule
  rw [expandFirst_stable _ (k + 1) 48 _ hi (by omega) (by omega), expandFirst_succ _ _ hi, expandWord_same]
  apply scheduleWord_congr
  intro i h hlt
  rw [expandFirst_stable _ k 48 _ h (by omega) (by omega)]

/-! ### The rounds -/

theorem roundsFirst_succ (W : Vector Word 64) (v : WorkingState) (k : Nat) (h : k < 64) :
    roundsFirst W v (k + 1) = compressionRound k h (roundsFirst W v k) W[k] := by
  conv_lhs => unfold roundsFirst
  rw [dif_pos h]

theorem roundT1_eq (v : WorkingState) (k w : Word) : roundT1 v k w = v.h + bsig1 v.e + ch v.e v.f v.g + k + w :=
  sumWords_five _ _ _ _ _

theorem roundT2_eq (v : WorkingState) : roundT2 v = bsig0 v.a + maj v.a v.b v.c := add32_eq _ _

theorem accumulate_word (H : Vector Word 8) (v : WorkingState) (i : Nat) (h : i < 8) :
    (accumulate H v)[i] = H[i] + (workingWords v)[i] := by
  simp [accumulate, add32_eq]

/-- One round of the windowed form (42_schedule.md R99). -/
theorem windowRounds_succ (B : Vector Byte 64) (v : WorkingState) (k : Nat) (h : k < 64) :
    windowRounds B v (k + 1) =
      (compressionRound k h (windowRounds B v k).1 (windowRounds B v k).2[0], windowNext (windowRounds B v k).2) := by
  conv_lhs => unfold windowRounds
  rw [dif_pos h]

theorem windowNext_low (V : Vector Word 16) (i : Nat) (h : i < 15) : (windowNext V)[i] = V[i + 1] := by
  simp [windowNext, h]

theorem windowNext_last (V : Vector Word 16) :
    (windowNext V)[15] = sumWords [ssig1 V[14], V[9], ssig0 V[1], V[0]] := by
  simp [windowNext]

end Sys2Proof.Machine
end

