-- ==== Sys2Proof/Laws/Encoding.lean ====
section
/-! SUPPORT. The fields of a HOSTTXN value, read back from the value and put together again, and what the decoder gives
for each row. -/

namespace Sys2Proof

/-! ### Fields -/

@[simp] theorem hostRw_hostWord (rw : Bool) (idx : BitVec 6) (data : Word) : hostRw (hostWord rw idx data) = rw := by
  simp [hostRw, hostWord]

@[simp] theorem hostIdx_hostWord (rw : Bool) (idx : BitVec 6) (data : Word) : hostIdx (hostWord rw idx data) = idx := by
  unfold hostIdx hostWord
  ext i hi
  simp [hi, show 32 + i < 39 by omega, show 32 + i < 38 by omega]

@[simp] theorem hostData_hostWord (rw : Bool) (idx : BitVec 6) (data : Word) :
    hostData (hostWord rw idx data) = data := by
  unfold hostData hostWord
  ext i hi
  simp [hi, show i < 38 by omega]; omega

/-- A HOSTTXN value is its three fields. -/
theorem hostWord_fields (w : BitVec 39) : hostWord (hostRw w) (hostIdx w) (hostData w) = w := by
  unfold hostWord hostRw hostIdx hostData
  ext i hi
  by_cases h1 : i < 32
  · simp [h1, show i < 38 by omega, hi]
  · by_cases h2 : i < 38
    · simp [h1, h2, show i - 32 < 6 by omega, hi, show 32 + (i - 32) = i by omega]
    · obtain rfl : i = 38 := by omega
      simp

/-- KEY is RW and IDX (30_encoding.md R58). -/
theorem hostKey_fields (w : BitVec 39) :
    hostKey w = (BitVec.ofBool (hostRw w)).setWidth 7 <<< 6 ||| (hostIdx w).setWidth 7 := by
  unfold hostKey hostRw hostIdx
  ext i hi
  by_cases h : i < 6
  · simp [h]
  · obtain rfl : i = 6 := by omega
    simp

/-- RW and IDX from KEY. -/
theorem fields_of_hostKey (w : BitVec 39) (k : BitVec 7) (h : hostKey w = k) :
    hostRw w = k.getLsbD 6 ∧ hostIdx w = k.extractLsb' 0 6 := by
  rw [← h, hostKey_fields]
  constructor
  · simp
  · ext i hi; simp [hi, show i < 7 by omega]

theorem hostData_bit (w : BitVec 39) (i : Nat) (h : i < 32) : (hostData w).getLsbD i = w.getLsbD i := by
  simp [hostData, h]

/-! ### Decoding a row -/

theorem decodeHost_write (idx : BitVec 6) (d : Word) : decodeHost (hostWord true idx d) = decodeWrite idx d := by
  simp [decodeHost]

theorem decodeHost_read (idx : BitVec 6) (d : Word) : decodeHost (hostWord false idx d) = decodeRead idx := by
  simp [decodeHost]

/-- The instruction, from KEY. -/
theorem decode_of_hostKey (w : BitVec 39) (k : BitVec 7) (h : hostKey w = k) :
    decode (.hosttxn w) =
      .ok (if k.getLsbD 6 then decodeWrite (k.extractLsb' 0 6) (hostData w) else decodeRead (k.extractLsb' 0 6)) := by
  obtain ⟨h1, h2⟩ := fields_of_hostKey w k h
  simp only [decode, decodeHost, h1, h2]

theorem decodeWrite_rsvdA (n : BitVec 6) (d : Word) (h : rsvdA n = true) : decodeWrite n d = .wrRsvdA n d := by
  simp only [rsvdA, Bool.and_eq_true, decide_eq_true_eq] at h
  unfold decodeWrite
  rw [if_neg, if_neg, if_neg, if_neg, if_pos (by omega)] <;> rintro rfl <;> simp at h

theorem decodeWrite_rsvdB (n : BitVec 6) (d : Word) (h : rsvdB n = true) : decodeWrite n d = .wrRsvdB n d := by
  simp only [rsvdB, Bool.and_eq_true, decide_eq_true_eq] at h
  unfold decodeWrite
  rw [if_neg, if_neg, if_neg, if_neg, if_neg (by omega), if_neg (by omega), if_pos (by omega)] <;> rintro rfl <;>
    simp at h

theorem decodeWrite_rsvdC (n : BitVec 6) (d : Word) (h : rsvdC n = true) : decodeWrite n d = .wrRsvdC n d := by
  simp only [rsvdC, decide_eq_true_eq] at h
  unfold decodeWrite
  rw [if_neg, if_neg, if_neg, if_neg, if_neg (by omega), if_neg (by omega), if_neg (by omega)] <;> rintro rfl <;>
    simp at h

theorem digestIdx_spec :
    ∀ i : BitVec 3, 8 ≤ (digestIdx i).toNat ∧ (digestIdx i).toNat < 16 ∧ digestIndex (digestIdx i) = i := by
  decide

theorem digestIdx_digestIndex :
    ∀ idx : BitVec 6, 8 ≤ idx.toNat → idx.toNat < 16 → digestIdx (digestIndex idx) = idx := by
  decide

theorem decodeWrite_digest (i : BitVec 3) (d : Word) : decodeWrite (digestIdx i) d = .wrDigest i d := by
  obtain ⟨h1, h2, h3⟩ := digestIdx_spec i
  unfold decodeWrite
  rw [h3]
  rw [if_neg, if_neg, if_neg, if_neg, if_neg (by omega), if_pos (by omega)] <;> intro h <;> simp [h] at h1

theorem decodeRead_rsvdA : ∀ n : BitVec 6, rsvdA n = true → decodeRead n = .rdRsvdA n := by decide

theorem decodeRead_rsvdB : ∀ n : BitVec 6, rsvdB n = true → decodeRead n = .rdRsvdB n := by decide

theorem decodeRead_rsvdC : ∀ n : BitVec 6, rsvdC n = true → decodeRead n = .rdRsvdC n := by decide

theorem decodeRead_digest : ∀ i : BitVec 3, decodeRead (digestIdx i) = .rdDigest i := by decide

/-- A read decodes to a well-formed read. -/
theorem decodeRead_spec :
    ∀ idx : BitVec 6, (decodeRead idx).isHost = true ∧ (decodeRead idx).wf = true ∧ (decodeRead idx).isRead = true := by
  decide

/-- A write decodes to a well-formed write. -/
theorem decodeWrite_spec (idx : BitVec 6) (d : Word) :
    (decodeWrite idx d).isHost = true ∧ (decodeWrite idx d).wf = true ∧ (decodeWrite idx d).isRead = false := by
  unfold decodeWrite
  split_ifs <;> simp_all [Instr.isHost, Instr.wf, Instr.isRead, rsvdA, rsvdB, rsvdC]
  all_goals try omega
  rename_i a b c d e
  have : idx.toNat ≠ 0 := fun h => a (BitVec.eq_of_toNat_eq (by simpa using h))
  have : idx.toNat ≠ 1 := fun h => b (BitVec.eq_of_toNat_eq (by simpa using h))
  have : idx.toNat ≠ 2 := fun h => c (BitVec.eq_of_toNat_eq (by simpa using h))
  have : idx.toNat ≠ 3 := fun h => d (BitVec.eq_of_toNat_eq (by simpa using h))
  all_goals omega

/-- Every HOSTTXN value decodes to a host transaction. -/
theorem decodeHost_isHost (w : BitVec 39) : (decodeHost w).isHost = true := by
  unfold decodeHost
  split
  · exact (decodeWrite_spec _ _).1
  · exact (decodeRead_spec _).1

/-- Only KEY = 0x40 with DATA[0] = 1 decodes to START. -/
theorem decodeHost_start (w : BitVec 39) (d : Word) (h : decodeHost w = .wrCtrlStart d) :
    hostKey w = 0x40 ∧ w.getLsbD 0 = true := by
  rw [hostKey_fields, ← hostData_bit w 0 (by omega)]
  unfold decodeHost at h
  cases hr : hostRw w
  · rw [hr, if_neg (by simp)] at h
    have := decodeRead_spec (hostIdx w)
    rw [h] at this
    simp [Instr.isRead] at this
  · rw [hr, if_pos rfl] at h
    unfold decodeWrite at h
    split_ifs at h with a b
    · rw [a]; exact ⟨by decide, b⟩

/-! ### Bytes (log 3) -/

theorem bytesToNat_five (w : Nat) (h : w < 2 ^ 40) :
    bytesToNat [byteAt w 0, byteAt w 1, byteAt w 2, byteAt w 3, byteAt w 4] = w := by
  simp only [bytesToNat, byteAt, BitVec.toNat_ofNat]
  omega

theorem bytesToNat_one (w : Nat) (h : w < 2 ^ 8) : bytesToNat [byteAt w 0] = w := by
  simp only [bytesToNat, byteAt, BitVec.toNat_ofNat]
  omega

/-- The decoder over the bytes of a code is the decoder over the code. -/
theorem decodeBytes_codeBytes (c : Code) : decodeBytes (codeBytes c) = liftCode (decode c) := by
  cases c with
  | hosttxn w =>
    have h := w.isLt
    unfold decodeBytes codeBytes
    rw [bytesToNat_five _ (by omega), if_neg (by simp), if_pos (by simp), if_pos h, BitVec.ofNat_toNat, BitVec.setWidth_eq]
  | seq k =>
    have h := k.isLt
    unfold decodeBytes codeBytes
    rw [bytesToNat_one _ (by omega), if_pos (by simp), if_pos h, BitVec.ofNat_toNat, BitVec.setWidth_eq]

/-! ### The opcode table -/

/-- The bits by which the opcode table tells the HOSTTXN rows apart: KEY and DATA[0]. -/
theorem hostRows_mask : ∀ r ∈ hostRows, r.mask &&& 0x7f00000001#39 = r.mask := by decide

/-- A HOSTTXN value's KEY and DATA[0], the rest zero. -/
theorem hostWord_summary (w : BitVec 39) :
    w &&& 0x7f00000001#39 = hostWord (hostRw w) (hostIdx w) ((BitVec.ofBool (w.getLsbD 0)).setWidth 32) := by
  have hm : ∀ i < 39, (0x7f00000001#39).getLsbD i = decide (32 ≤ i ∨ i = 0) := by decide
  unfold hostWord hostRw hostIdx
  ext i hi
  have hmi := hm i hi
  rw [BitVec.getLsbD_eq_getElem hi] at hmi
  rw [BitVec.getElem_and, hmi]
  by_cases h1 : i < 32
  · by_cases h0 : i = 0
    · subst h0; simp
    · simp [h1, show i < 38 by omega, h0, show ¬ 32 ≤ i by omega]
  · by_cases h2 : i < 38
    · simp [h1, h2, show i - 32 < 6 by omega, hi, show 32 + (i - 32) = i by omega, show 32 ≤ i by omega]
      intro h; omega
    · obtain rfl : i = 38 := by omega
      simp

/-- A value is a row's exactly when its KEY and DATA[0] are. -/
theorem hostRow_summary (w : BitVec 39) (r : HostRow) (hr : r ∈ hostRows) :
    w &&& 0x7f00000001#39 &&& r.mask = w &&& r.mask := by
  rw [BitVec.and_assoc, BitVec.and_comm (0x7f00000001#39), hostRows_mask r hr]

end Sys2Proof
end

