-- ==== Sys2Proof/Laws/Memory.lean ====
section
/-! SUPPORT. The memory the message lies in: a read after a write, the canonical form, the message port, and MSG_MAP. -/

namespace Sys2Proof.Machine

@[simp] theorem Memory.read_nil (i : Nat) : Memory.read [] i = none := rfl

theorem Memory.read_write_same (m : Memory) (i : Nat) (v : Byte) : (m.write i v).read i = some v := by
  induction m with
  | nil => simp [Memory.write, Memory.read]
  | cons x m ih =>
    obtain ⟨a, b⟩ := x
    unfold Memory.write
    split
    · simp [Memory.read]
    · split
      · simp [Memory.read]
      · next h => simp [Memory.read, Ne.symm h, ih]

theorem Memory.read_write_other (m : Memory) (i j : Nat) (v : Byte) (hj : j ≠ i) :
    (m.write i v).read j = m.read j := by
  induction m with
  | nil => simp [Memory.write, Memory.read, hj.symm]
  | cons x m ih =>
    obtain ⟨a, b⟩ := x
    unfold Memory.write
    split
    · simp [Memory.read, hj.symm]
    · split
      · next h => subst h; simp [Memory.read, hj.symm]
      · simp [Memory.read, ih]

/-- The locations a write lists are those listed before and the written one. -/
theorem Memory.mem_write (m : Memory) (i : Nat) (v : Byte) (x : Host.Cell) :
    x ∈ m.write i v → x ∈ m ∨ x.1 = i := by
  induction m with
  | nil => intro h; simp [Memory.write] at h; simp [h]
  | cons y m ih =>
    obtain ⟨a, b⟩ := y
    unfold Memory.write
    split
    · intro h
      rcases List.mem_cons.mp h with h | h
      · exact .inr (by simp [h])
      · exact .inl h
    · split
      · intro h
        rcases List.mem_cons.mp h with h | h
        · exact .inr (by simp [h])
        · exact .inl (List.mem_cons_of_mem _ h)
      · intro h
        rcases List.mem_cons.mp h with h | h
        · exact .inl (by simp [h])
        · exact (ih h).imp (List.mem_cons_of_mem _) id

/-- A write keeps the canonical form. -/
theorem Memory.wf_write (m : Memory) (i : Nat) (v : Byte) (h : m.wf) : (m.write i v).wf := by
  induction m with
  | nil => simp [Memory.write]
  | cons y m ih =>
    obtain ⟨a, b⟩ := y
    have hm := List.pairwise_cons.mp h
    unfold Memory.write
    split
    · next hi =>
      refine List.pairwise_cons.mpr ⟨fun x hx => ?_, h⟩
      rcases List.mem_cons.mp hx with rfl | hx
      · exact hi
      · exact Nat.lt_trans hi (hm.1 x hx)
    · split
      · next _ hi => subst hi; exact List.pairwise_cons.mpr ⟨hm.1, hm.2⟩
      · next h1 h2 =>
        refine List.pairwise_cons.mpr ⟨fun x hx => ?_, ih hm.2⟩
        rcases Memory.mem_write m i v x hx with hx | hx
        · exact hm.1 x hx
        · show a < x.1
          omega

theorem valuesOverwritten_nil (i : Nat) : valuesOverwritten [] i = [] := rfl

theorem valuesOverwritten_cons (c : Host.Cell) (cs : List Host.Cell) (i : Nat) :
    valuesOverwritten (c :: cs) i = if c.1 = i then c.2 :: valuesOverwritten cs i else valuesOverwritten cs i := by
  unfold valuesOverwritten
  by_cases h : c.1 = i <;> simp [h]

/-- Reading through the port where no host write raced: the byte held. -/
theorem State.portByte_quiet (s : State) (i : Nat) (h : s.messageOverwritten i = []) :
    s.portByte i = s.messageByte i := by
  unfold State.portByte
  rw [h]

/-- Reading through the port gives one of the values the offset has held. -/
theorem State.portByte_mem (s : State) (i : Nat) :
    s.portByte i ∈ s.messageByte i :: s.messageOverwritten i := by
  unfold State.portByte
  split
  · exact List.mem_cons_self
  · next b rest h =>
    rw [h, List.getD_eq_getElem _ _ (by simpa using Nat.mod_lt _ (Nat.succ_pos _))]
    exact List.getElem_mem _

end Sys2Proof.Machine

namespace Sys2Proof

/-! ### MSG_MAP -/

theorem MsgMap.location_hit (p : MsgPiece) (m : MsgMap) (i : Nat) (h : p.offset ≤ i ∧ i < p.offset + p.length) :
    MsgMap.location (p :: m) i = p.location + (i - p.offset) := by
  simp [MsgMap.location, h]

theorem MsgMap.location_miss (p : MsgPiece) (m : MsgMap) (i : Nat) (h : ¬(p.offset ≤ i ∧ i < p.offset + p.length)) :
    MsgMap.location (p :: m) i = MsgMap.location m i := by
  rw [MsgMap.location, if_neg h]

/-- Every map of the offsets below n is a list of pieces, so MSG_MAP as plain data leaves no map out (00_scope.md R6). -/
theorem MsgMap.represents_every_map (f : Nat → Nat) (n : Nat) : ∃ m : MsgMap, ∀ i < n, m.location i = f i := by
  induction n with
  | zero => exact ⟨[], fun i h => absurd h (Nat.not_lt_zero i)⟩
  | succ n ih =>
    obtain ⟨m, hm⟩ := ih
    refine ⟨⟨n, f n, 1⟩ :: m, fun i hi => ?_⟩
    by_cases c : i = n
    · subst c
      rw [MsgMap.location_hit _ _ _ ⟨Nat.le_refl i, Nat.lt_succ_self i⟩, Nat.sub_self, Nat.add_zero]
    · rw [MsgMap.location_miss _ _ _ (fun h => c (Nat.le_antisymm (Nat.lt_succ_iff.mp h.2) h.1))]
      exact hm i (by omega)

theorem MsgMap.identity_injective (n : Nat) : MsgMap.InjectiveBelow [] n := fun _ _ _ _ h => h

/-- The parameters of the reset state are legal values of R6. -/
theorem Params.default_legal : Params.default.Legal := ⟨rfl, MsgMap.identity_injective _⟩

end Sys2Proof
end

