-- ==== Sys2Proof/Laws/State.lean ====
section
/-! SUPPORT. What each named update does to each field of State: one lemma per field, so that no proof unfolds a record
update. -/

namespace Sys2Proof.Machine

section
variable (s : State)

@[simp] theorem State.observe_H (w : Word) : (s.observe w).H = s.H := rfl
@[simp] theorem State.observe_ws (w : Word) : (s.observe w).ws = s.ws := rfl
@[simp] theorem State.observe_W (w : Word) : (s.observe w).W = s.W := rfl
@[simp] theorem State.observe_phase (w : Word) : (s.observe w).phase = s.phase := rfl
@[simp] theorem State.observe_t (w : Word) : (s.observe w).t = s.t := rfl
@[simp] theorem State.observe_blk (w : Word) : (s.observe w).blk = s.blk := rfl
@[simp] theorem State.observe_nblk (w : Word) : (s.observe w).nblk = s.nblk := rfl
@[simp] theorem State.observe_mlen (w : Word) : (s.observe w).mlen = s.mlen := rfl
@[simp] theorem State.observe_len (w : Word) : (s.observe w).len = s.len := rfl
@[simp] theorem State.observe_done (w : Word) : (s.observe w).done = s.done := rfl
@[simp] theorem State.observe_err (w : Word) : (s.observe w).err = s.err := rfl
@[simp] theorem State.observe_errCode (w : Word) : (s.observe w).errCode = s.errCode := rfl
@[simp] theorem State.observe_msg (w : Word) : (s.observe w).msg = s.msg := rfl
@[simp] theorem State.observe_observed (w : Word) : (s.observe w).observed = s.observed ++ [w] := rfl
@[simp] theorem State.observe_params (w : Word) : (s.observe w).params = s.params := rfl
@[simp] theorem State.observe_agenda (w : Word) : (s.observe w).agenda = s.agenda := rfl
@[simp] theorem State.observe_overwritten (w : Word) : (s.observe w).overwritten = s.overwritten := rfl
@[simp] theorem State.observe_draws (w : Word) : (s.observe w).draws = s.draws := rfl
@[simp] theorem State.observe_source (w : Word) : (s.observe w).source = s.source := rfl

@[simp] theorem State.drawn_H : s.drawn.H = s.H := rfl
@[simp] theorem State.drawn_ws : s.drawn.ws = s.ws := rfl
@[simp] theorem State.drawn_W : s.drawn.W = s.W := rfl
@[simp] theorem State.drawn_phase : s.drawn.phase = s.phase := rfl
@[simp] theorem State.drawn_t : s.drawn.t = s.t := rfl
@[simp] theorem State.drawn_blk : s.drawn.blk = s.blk := rfl
@[simp] theorem State.drawn_nblk : s.drawn.nblk = s.nblk := rfl
@[simp] theorem State.drawn_mlen : s.drawn.mlen = s.mlen := rfl
@[simp] theorem State.drawn_len : s.drawn.len = s.len := rfl
@[simp] theorem State.drawn_done : s.drawn.done = s.done := rfl
@[simp] theorem State.drawn_err : s.drawn.err = s.err := rfl
@[simp] theorem State.drawn_errCode : s.drawn.errCode = s.errCode := rfl
@[simp] theorem State.drawn_msg : s.drawn.msg = s.msg := rfl
@[simp] theorem State.drawn_observed : s.drawn.observed = s.observed := rfl
@[simp] theorem State.drawn_params : s.drawn.params = s.params := rfl
@[simp] theorem State.drawn_agenda : s.drawn.agenda = s.agenda := rfl
@[simp] theorem State.drawn_overwritten : s.drawn.overwritten = s.overwritten := rfl
@[simp] theorem State.drawn_draws : s.drawn.draws = s.draws + 1 := rfl
@[simp] theorem State.drawn_source : s.drawn.source = s.source := rfl

@[simp] theorem State.raiseError_H (code : BitVec 4) : (s.raiseError code).H = s.H := rfl
@[simp] theorem State.raiseError_ws (code : BitVec 4) : (s.raiseError code).ws = s.ws := rfl
@[simp] theorem State.raiseError_W (code : BitVec 4) : (s.raiseError code).W = s.W := rfl
@[simp] theorem State.raiseError_phase (code : BitVec 4) : (s.raiseError code).phase = s.phase := rfl
@[simp] theorem State.raiseError_t (code : BitVec 4) : (s.raiseError code).t = s.t := rfl
@[simp] theorem State.raiseError_blk (code : BitVec 4) : (s.raiseError code).blk = s.blk := rfl
@[simp] theorem State.raiseError_nblk (code : BitVec 4) : (s.raiseError code).nblk = s.nblk := rfl
@[simp] theorem State.raiseError_mlen (code : BitVec 4) : (s.raiseError code).mlen = s.mlen := rfl
@[simp] theorem State.raiseError_len (code : BitVec 4) : (s.raiseError code).len = s.len := rfl
@[simp] theorem State.raiseError_done (code : BitVec 4) : (s.raiseError code).done = false := rfl
@[simp] theorem State.raiseError_err (code : BitVec 4) : (s.raiseError code).err = true := rfl
@[simp] theorem State.raiseError_errCode (code : BitVec 4) : (s.raiseError code).errCode = code := rfl
@[simp] theorem State.raiseError_msg (code : BitVec 4) : (s.raiseError code).msg = s.msg := rfl
@[simp] theorem State.raiseError_observed (code : BitVec 4) : (s.raiseError code).observed = s.observed := rfl
@[simp] theorem State.raiseError_params (code : BitVec 4) : (s.raiseError code).params = s.params := rfl
@[simp] theorem State.raiseError_agenda (code : BitVec 4) : (s.raiseError code).agenda = s.agenda := rfl
@[simp] theorem State.raiseError_overwritten (code : BitVec 4) : (s.raiseError code).overwritten = s.overwritten := rfl
@[simp] theorem State.raiseError_draws (code : BitVec 4) : (s.raiseError code).draws = s.draws := rfl
@[simp] theorem State.raiseError_source (code : BitVec 4) : (s.raiseError code).source = s.source := rfl

@[simp] theorem State.acceptStart_H : s.acceptStart.H = IV := rfl
@[simp] theorem State.acceptStart_ws : s.acceptStart.ws = s.ws := rfl
@[simp] theorem State.acceptStart_W : s.acceptStart.W = s.W := rfl
@[simp] theorem State.acceptStart_phase : s.acceptStart.phase = phaseLoad := rfl
@[simp] theorem State.acceptStart_t : s.acceptStart.t = s.t := rfl
@[simp] theorem State.acceptStart_blk : s.acceptStart.blk = 0 := rfl
@[simp] theorem State.acceptStart_nblk : s.acceptStart.nblk = BitVec.ofNat 64 (blockCount s.len.toNat) := rfl
@[simp] theorem State.acceptStart_mlen : s.acceptStart.mlen = s.len := rfl
@[simp] theorem State.acceptStart_len : s.acceptStart.len = s.len := rfl
@[simp] theorem State.acceptStart_done : s.acceptStart.done = false := rfl
@[simp] theorem State.acceptStart_err : s.acceptStart.err = false := rfl
@[simp] theorem State.acceptStart_errCode : s.acceptStart.errCode = 0 := rfl
@[simp] theorem State.acceptStart_msg : s.acceptStart.msg = s.msg := rfl
@[simp] theorem State.acceptStart_observed : s.acceptStart.observed = s.observed := rfl
@[simp] theorem State.acceptStart_params : s.acceptStart.params = s.params := rfl
@[simp] theorem State.acceptStart_agenda : s.acceptStart.agenda = s.agenda := rfl
@[simp] theorem State.acceptStart_overwritten : s.acceptStart.overwritten = [] := rfl
@[simp] theorem State.acceptStart_draws : s.acceptStart.draws = s.draws := rfl
@[simp] theorem State.acceptStart_source : s.acceptStart.source = s.source := rfl

@[simp] theorem State.resetStep_H : s.resetStep.H = Vector.ofFn (Config.resetHash s.source s.draws) := rfl
@[simp] theorem State.resetStep_ws : s.resetStep.ws = seedWorking (Vector.ofFn (Config.resetWorking s.source s.draws)) := rfl
@[simp] theorem State.resetStep_W : s.resetStep.W = Vector.ofFn (Config.resetSchedule s.source s.draws) := rfl
@[simp] theorem State.resetStep_phase : s.resetStep.phase = phaseIdle := rfl
@[simp] theorem State.resetStep_t : s.resetStep.t = Config.resetT s.source s.draws := rfl
@[simp] theorem State.resetStep_blk : s.resetStep.blk = Config.resetBlk s.source s.draws := rfl
@[simp] theorem State.resetStep_nblk : s.resetStep.nblk = Config.resetNblk s.source s.draws := rfl
@[simp] theorem State.resetStep_mlen : s.resetStep.mlen = Config.resetMlen s.source s.draws := rfl
@[simp] theorem State.resetStep_len : s.resetStep.len = 0 := rfl
@[simp] theorem State.resetStep_done : s.resetStep.done = false := rfl
@[simp] theorem State.resetStep_err : s.resetStep.err = false := rfl
@[simp] theorem State.resetStep_errCode : s.resetStep.errCode = 0 := rfl
@[simp] theorem State.resetStep_msg : s.resetStep.msg = s.msg := rfl
@[simp] theorem State.resetStep_observed : s.resetStep.observed = s.observed := rfl
@[simp] theorem State.resetStep_params : s.resetStep.params = s.params := rfl
@[simp] theorem State.resetStep_agenda : s.resetStep.agenda = s.agenda := rfl
@[simp] theorem State.resetStep_overwritten : s.resetStep.overwritten = [] := rfl
@[simp] theorem State.resetStep_draws : s.resetStep.draws = s.draws + 1 := rfl
@[simp] theorem State.resetStep_source : s.resetStep.source = s.source := rfl

@[simp] theorem State.storeByte_H (i : Nat) (b : Byte) : (s.storeByte i b).H = s.H := rfl
@[simp] theorem State.storeByte_ws (i : Nat) (b : Byte) : (s.storeByte i b).ws = s.ws := rfl
@[simp] theorem State.storeByte_W (i : Nat) (b : Byte) : (s.storeByte i b).W = s.W := rfl
@[simp] theorem State.storeByte_phase (i : Nat) (b : Byte) : (s.storeByte i b).phase = s.phase := rfl
@[simp] theorem State.storeByte_t (i : Nat) (b : Byte) : (s.storeByte i b).t = s.t := rfl
@[simp] theorem State.storeByte_blk (i : Nat) (b : Byte) : (s.storeByte i b).blk = s.blk := rfl
@[simp] theorem State.storeByte_nblk (i : Nat) (b : Byte) : (s.storeByte i b).nblk = s.nblk := rfl
@[simp] theorem State.storeByte_mlen (i : Nat) (b : Byte) : (s.storeByte i b).mlen = s.mlen := rfl
@[simp] theorem State.storeByte_len (i : Nat) (b : Byte) : (s.storeByte i b).len = s.len := rfl
@[simp] theorem State.storeByte_done (i : Nat) (b : Byte) : (s.storeByte i b).done = s.done := rfl
@[simp] theorem State.storeByte_err (i : Nat) (b : Byte) : (s.storeByte i b).err = s.err := rfl
@[simp] theorem State.storeByte_errCode (i : Nat) (b : Byte) : (s.storeByte i b).errCode = s.errCode := rfl
@[simp] theorem State.storeByte_msg (i : Nat) (b : Byte) : (s.storeByte i b).msg = s.msg.write i b := rfl
@[simp] theorem State.storeByte_observed (i : Nat) (b : Byte) : (s.storeByte i b).observed = s.observed := rfl
@[simp] theorem State.storeByte_params (i : Nat) (b : Byte) : (s.storeByte i b).params = s.params := rfl
@[simp] theorem State.storeByte_agenda (i : Nat) (b : Byte) : (s.storeByte i b).agenda = s.agenda := rfl
@[simp] theorem State.storeByte_overwritten (i : Nat) (b : Byte) : (s.storeByte i b).overwritten = if s.busy then (i, s.memoryByte i) :: s.overwritten else s.overwritten := rfl
@[simp] theorem State.storeByte_draws (i : Nat) (b : Byte) : (s.storeByte i b).draws = s.draws := rfl
@[simp] theorem State.storeByte_source (i : Nat) (b : Byte) : (s.storeByte i b).source = s.source := rfl

@[simp] theorem State.setLenLo_H (data : Word) : (s.setLenLo data).H = s.H := rfl
@[simp] theorem State.setLenLo_ws (data : Word) : (s.setLenLo data).ws = s.ws := rfl
@[simp] theorem State.setLenLo_W (data : Word) : (s.setLenLo data).W = s.W := rfl
@[simp] theorem State.setLenLo_phase (data : Word) : (s.setLenLo data).phase = s.phase := rfl
@[simp] theorem State.setLenLo_t (data : Word) : (s.setLenLo data).t = s.t := rfl
@[simp] theorem State.setLenLo_blk (data : Word) : (s.setLenLo data).blk = s.blk := rfl
@[simp] theorem State.setLenLo_nblk (data : Word) : (s.setLenLo data).nblk = s.nblk := rfl
@[simp] theorem State.setLenLo_mlen (data : Word) : (s.setLenLo data).mlen = s.mlen := rfl
@[simp] theorem State.setLenLo_len (data : Word) : (s.setLenLo data).len = (s.len.extractLsb' 32 32).setWidth 64 <<< 32 ||| data.setWidth 64 := rfl
@[simp] theorem State.setLenLo_done (data : Word) : (s.setLenLo data).done = s.done := rfl
@[simp] theorem State.setLenLo_err (data : Word) : (s.setLenLo data).err = s.err := rfl
@[simp] theorem State.setLenLo_errCode (data : Word) : (s.setLenLo data).errCode = s.errCode := rfl
@[simp] theorem State.setLenLo_msg (data : Word) : (s.setLenLo data).msg = s.msg := rfl
@[simp] theorem State.setLenLo_observed (data : Word) : (s.setLenLo data).observed = s.observed := rfl
@[simp] theorem State.setLenLo_params (data : Word) : (s.setLenLo data).params = s.params := rfl
@[simp] theorem State.setLenLo_agenda (data : Word) : (s.setLenLo data).agenda = s.agenda := rfl
@[simp] theorem State.setLenLo_overwritten (data : Word) : (s.setLenLo data).overwritten = s.overwritten := rfl
@[simp] theorem State.setLenLo_draws (data : Word) : (s.setLenLo data).draws = s.draws := rfl
@[simp] theorem State.setLenLo_source (data : Word) : (s.setLenLo data).source = s.source := rfl

@[simp] theorem State.setLenHi_H (data : Word) : (s.setLenHi data).H = s.H := rfl
@[simp] theorem State.setLenHi_ws (data : Word) : (s.setLenHi data).ws = s.ws := rfl
@[simp] theorem State.setLenHi_W (data : Word) : (s.setLenHi data).W = s.W := rfl
@[simp] theorem State.setLenHi_phase (data : Word) : (s.setLenHi data).phase = s.phase := rfl
@[simp] theorem State.setLenHi_t (data : Word) : (s.setLenHi data).t = s.t := rfl
@[simp] theorem State.setLenHi_blk (data : Word) : (s.setLenHi data).blk = s.blk := rfl
@[simp] theorem State.setLenHi_nblk (data : Word) : (s.setLenHi data).nblk = s.nblk := rfl
@[simp] theorem State.setLenHi_mlen (data : Word) : (s.setLenHi data).mlen = s.mlen := rfl
@[simp] theorem State.setLenHi_len (data : Word) : (s.setLenHi data).len = data.setWidth 64 <<< 32 ||| (s.len.extractLsb' 0 32).setWidth 64 := rfl
@[simp] theorem State.setLenHi_done (data : Word) : (s.setLenHi data).done = s.done := rfl
@[simp] theorem State.setLenHi_err (data : Word) : (s.setLenHi data).err = s.err := rfl
@[simp] theorem State.setLenHi_errCode (data : Word) : (s.setLenHi data).errCode = s.errCode := rfl
@[simp] theorem State.setLenHi_msg (data : Word) : (s.setLenHi data).msg = s.msg := rfl
@[simp] theorem State.setLenHi_observed (data : Word) : (s.setLenHi data).observed = s.observed := rfl
@[simp] theorem State.setLenHi_params (data : Word) : (s.setLenHi data).params = s.params := rfl
@[simp] theorem State.setLenHi_agenda (data : Word) : (s.setLenHi data).agenda = s.agenda := rfl
@[simp] theorem State.setLenHi_overwritten (data : Word) : (s.setLenHi data).overwritten = s.overwritten := rfl
@[simp] theorem State.setLenHi_draws (data : Word) : (s.setLenHi data).draws = s.draws := rfl
@[simp] theorem State.setLenHi_source (data : Word) : (s.setLenHi data).source = s.source := rfl

@[simp] theorem State.loadBlock_H : s.loadBlock.H = s.H := rfl
@[simp] theorem State.loadBlock_ws : s.loadBlock.ws = seedWorking s.H := rfl
@[simp] theorem State.loadBlock_W : s.loadBlock.W = decodeBlock s.currentBlock s.W := rfl
@[simp] theorem State.loadBlock_phase : s.loadBlock.phase = phaseExpand := rfl
@[simp] theorem State.loadBlock_t : s.loadBlock.t = 16 := rfl
@[simp] theorem State.loadBlock_blk : s.loadBlock.blk = s.blk := rfl
@[simp] theorem State.loadBlock_nblk : s.loadBlock.nblk = s.nblk := rfl
@[simp] theorem State.loadBlock_mlen : s.loadBlock.mlen = s.mlen := rfl
@[simp] theorem State.loadBlock_len : s.loadBlock.len = s.len := rfl
@[simp] theorem State.loadBlock_done : s.loadBlock.done = s.done := rfl
@[simp] theorem State.loadBlock_err : s.loadBlock.err = s.err := rfl
@[simp] theorem State.loadBlock_errCode : s.loadBlock.errCode = s.errCode := rfl
@[simp] theorem State.loadBlock_msg : s.loadBlock.msg = s.msg := rfl
@[simp] theorem State.loadBlock_observed : s.loadBlock.observed = s.observed := rfl
@[simp] theorem State.loadBlock_params : s.loadBlock.params = s.params := rfl
@[simp] theorem State.loadBlock_agenda : s.loadBlock.agenda = s.agenda := rfl
@[simp] theorem State.loadBlock_overwritten : s.loadBlock.overwritten = s.overwritten := rfl
@[simp] theorem State.loadBlock_draws : s.loadBlock.draws = s.draws + 1 := rfl
@[simp] theorem State.loadBlock_source : s.loadBlock.source = s.source := rfl

@[simp] theorem State.expandStep_H (lo : 16 ≤ s.t.toNat) : (s.expandStep lo).H = s.H := rfl
@[simp] theorem State.expandStep_ws (lo : 16 ≤ s.t.toNat) : (s.expandStep lo).ws = s.ws := rfl
@[simp] theorem State.expandStep_W (lo : 16 ≤ s.t.toNat) : (s.expandStep lo).W = expandWord s.W s.t.toNat lo s.t.isLt := rfl
@[simp] theorem State.expandStep_phase (lo : 16 ≤ s.t.toNat) : (s.expandStep lo).phase = if s.t = 63 then phaseRound else s.phase := rfl
@[simp] theorem State.expandStep_t (lo : 16 ≤ s.t.toNat) : (s.expandStep lo).t = if s.t = 63 then 0 else s.t + 1 := rfl
@[simp] theorem State.expandStep_blk (lo : 16 ≤ s.t.toNat) : (s.expandStep lo).blk = s.blk := rfl
@[simp] theorem State.expandStep_nblk (lo : 16 ≤ s.t.toNat) : (s.expandStep lo).nblk = s.nblk := rfl
@[simp] theorem State.expandStep_mlen (lo : 16 ≤ s.t.toNat) : (s.expandStep lo).mlen = s.mlen := rfl
@[simp] theorem State.expandStep_len (lo : 16 ≤ s.t.toNat) : (s.expandStep lo).len = s.len := rfl
@[simp] theorem State.expandStep_done (lo : 16 ≤ s.t.toNat) : (s.expandStep lo).done = s.done := rfl
@[simp] theorem State.expandStep_err (lo : 16 ≤ s.t.toNat) : (s.expandStep lo).err = s.err := rfl
@[simp] theorem State.expandStep_errCode (lo : 16 ≤ s.t.toNat) : (s.expandStep lo).errCode = s.errCode := rfl
@[simp] theorem State.expandStep_msg (lo : 16 ≤ s.t.toNat) : (s.expandStep lo).msg = s.msg := rfl
@[simp] theorem State.expandStep_observed (lo : 16 ≤ s.t.toNat) : (s.expandStep lo).observed = s.observed := rfl
@[simp] theorem State.expandStep_params (lo : 16 ≤ s.t.toNat) : (s.expandStep lo).params = s.params := rfl
@[simp] theorem State.expandStep_agenda (lo : 16 ≤ s.t.toNat) : (s.expandStep lo).agenda = s.agenda := rfl
@[simp] theorem State.expandStep_overwritten (lo : 16 ≤ s.t.toNat) : (s.expandStep lo).overwritten = s.overwritten := rfl
@[simp] theorem State.expandStep_draws (lo : 16 ≤ s.t.toNat) : (s.expandStep lo).draws = s.draws := rfl
@[simp] theorem State.expandStep_source (lo : 16 ≤ s.t.toNat) : (s.expandStep lo).source = s.source := rfl

@[simp] theorem State.roundStep_H : s.roundStep.H = s.H := rfl
@[simp] theorem State.roundStep_ws : s.roundStep.ws = compressionRound s.t.toNat s.t.isLt s.ws (s.W[s.t.toNat]'(s.t.isLt)) := rfl
@[simp] theorem State.roundStep_W : s.roundStep.W = s.W := rfl
@[simp] theorem State.roundStep_phase : s.roundStep.phase = if s.t = 63 then phaseAccum else s.phase := rfl
@[simp] theorem State.roundStep_t : s.roundStep.t = if s.t = 63 then s.t else s.t + 1 := rfl
@[simp] theorem State.roundStep_blk : s.roundStep.blk = s.blk := rfl
@[simp] theorem State.roundStep_nblk : s.roundStep.nblk = s.nblk := rfl
@[simp] theorem State.roundStep_mlen : s.roundStep.mlen = s.mlen := rfl
@[simp] theorem State.roundStep_len : s.roundStep.len = s.len := rfl
@[simp] theorem State.roundStep_done : s.roundStep.done = s.done := rfl
@[simp] theorem State.roundStep_err : s.roundStep.err = s.err := rfl
@[simp] theorem State.roundStep_errCode : s.roundStep.errCode = s.errCode := rfl
@[simp] theorem State.roundStep_msg : s.roundStep.msg = s.msg := rfl
@[simp] theorem State.roundStep_observed : s.roundStep.observed = s.observed := rfl
@[simp] theorem State.roundStep_params : s.roundStep.params = s.params := rfl
@[simp] theorem State.roundStep_agenda : s.roundStep.agenda = s.agenda := rfl
@[simp] theorem State.roundStep_overwritten : s.roundStep.overwritten = s.overwritten := rfl
@[simp] theorem State.roundStep_draws : s.roundStep.draws = s.draws := rfl
@[simp] theorem State.roundStep_source : s.roundStep.source = s.source := rfl

@[simp] theorem State.accumStep_H : s.accumStep.H = accumulate s.H s.ws := rfl
@[simp] theorem State.accumStep_ws : s.accumStep.ws = s.ws := rfl
@[simp] theorem State.accumStep_W : s.accumStep.W = s.W := rfl
@[simp] theorem State.accumStep_phase : s.accumStep.phase = if s.lastBlock then phaseIdle else phaseLoad := rfl
@[simp] theorem State.accumStep_t : s.accumStep.t = s.t := rfl
@[simp] theorem State.accumStep_blk : s.accumStep.blk = s.blk + 1 := rfl
@[simp] theorem State.accumStep_nblk : s.accumStep.nblk = s.nblk := rfl
@[simp] theorem State.accumStep_mlen : s.accumStep.mlen = s.mlen := rfl
@[simp] theorem State.accumStep_len : s.accumStep.len = s.len := rfl
@[simp] theorem State.accumStep_done : s.accumStep.done = if s.lastBlock then true else s.done := rfl
@[simp] theorem State.accumStep_err : s.accumStep.err = s.err := rfl
@[simp] theorem State.accumStep_errCode : s.accumStep.errCode = s.errCode := rfl
@[simp] theorem State.accumStep_msg : s.accumStep.msg = s.msg := rfl
@[simp] theorem State.accumStep_observed : s.accumStep.observed = s.observed := rfl
@[simp] theorem State.accumStep_params : s.accumStep.params = s.params := rfl
@[simp] theorem State.accumStep_agenda : s.accumStep.agenda = s.agenda := rfl
@[simp] theorem State.accumStep_overwritten : s.accumStep.overwritten = s.overwritten := rfl
@[simp] theorem State.accumStep_draws : s.accumStep.draws = s.draws := rfl
@[simp] theorem State.accumStep_source : s.accumStep.source = s.source := rfl

end

end Sys2Proof.Machine
end

