-- ==== Sys2Proof/Laws/Ops.lean ====
section
/-! SUPPORT. What each shared operation can do: the flags, START's checks, the host's byte stores, the port and the
platform access. -/

namespace Sys2Proof.Machine

theorem busy_iff (s : State) : s.busy = true ↔ s.phase ≠ 0 := by simp [State.busy, phaseIdle]

theorem not_busy_iff (s : State) : s.busy = false ↔ s.phase = 0 := by simp [State.busy, phaseIdle]

theorem lenOverflows_iff (s : State) : s.lenOverflows = true ↔ 2 ^ 61 ≤ s.len.toNat := by simp [State.lenOverflows]

theorem lenUnsupported_iff (s : State) : s.lenUnsupported = true ↔ s.params.maxLen.val < s.len.toNat := by
  simp [State.lenUnsupported]

theorem errorCodeReserved_iff (s : State) : s.errorCodeReserved = true ↔ 3 ≤ s.errCode.toNat := by
  simp [State.errorCodeReserved]

theorem lastBlock_iff (s : State) : s.lastBlock = true ↔ s.blk.toNat + 1 = s.nblk.toNat := by simp [State.lastBlock]

/-- The bits of a status word, whatever its four fields. -/
theorem statusBits : ∀ (e : BitVec 4) (err done busy : Bool),
    let v : Word := (e ++ 0#1 ++ BitVec.ofBool err ++ BitVec.ofBool done ++ BitVec.ofBool busy).setWidth 32
    v.getLsbD 0 = busy ∧ v.getLsbD 1 = done ∧ v.getLsbD 2 = err ∧ v.getLsbD 3 = false ∧
      v.extractLsb' 4 4 = e ∧ v.extractLsb' 8 24 = 0 ∧ (v.extractLsb' 1 2 = 1#2 ↔ done = true ∧ err = false) := by
  decide

/-- Reading the byte just stored. -/
theorem memoryByte_storeByte_same (s : State) (l : Nat) (b : Byte) : (s.storeByte l b).memoryByte l = b := by
  simp [State.memoryByte, Memory.read_write_same]

theorem memoryByte_storeByte_other (s : State) (l : Nat) (b : Byte) (k : Nat) (h : k ≠ l) :
    (s.storeByte l b).memoryByte k = s.memoryByte k := by
  simp [State.memoryByte, Memory.read_write_other _ _ _ _ h]

@[simp] theorem location_storeByte (s : State) (l : Nat) (b : Byte) (i : Nat) :
    (s.storeByte l b).location i = s.location i := rfl

/-- A store away from a message byte's location leaves the byte, and the values it held, as they were. -/
theorem message_storeByte_other (s : State) (l : Nat) (b : Byte) (i : Nat) (h : s.location i ≠ l) :
    (s.storeByte l b).messageByte i = s.messageByte i ∧
      (s.storeByte l b).messageOverwritten i = s.messageOverwritten i := by
  constructor
  · exact memoryByte_storeByte_other s l b _ h
  · unfold State.messageOverwritten
    simp only [State.storeByte_overwritten, location_storeByte]
    split
    · rw [valuesOverwritten_cons, if_neg (Ne.symm h)]
    · rfl

/-- What the port reads depends on the memory, the overwritten values, the parameters and the draws alone. -/
theorem portByte_congr (s t : State) (h1 : t.msg = s.msg) (h2 : t.overwritten = s.overwritten) (h3 : t.draws = s.draws)
    (h4 : t.params = s.params) (h5 : t.source = s.source) (i : Nat) : t.portByte i = s.portByte i := by
  unfold State.portByte State.messageByte State.messageOverwritten State.memoryByte State.location
  rw [h1, h2, h3, h4, h5]

theorem reset_memory_wf : State.reset.msg.wf := by simp [State.reset]

/-- A host store keeps the canonical form, and is the only operation that writes the message memory. -/
theorem storeByte_memory_wf (s : State) (a : Nat) (b : Byte) (h : s.msg.wf) : (s.storeByte a b).msg.wf :=
  Memory.wf_write _ _ _ h

/-- A platform access is the transaction of its index, or is refused. -/
theorem busTransaction_cases (p : Params) (acc : BusAccess) :
    (∃ n : BitVec 6, acc.size = 4 ∧ acc.addr = p.regBase + 4 * n.toNat ∧
      busTransaction p acc = .ok (hostWord acc.write n (if acc.write then acc.data else 0))) ∨
    busTransaction p acc = .error .unsupportedBusAccess ∨ busTransaction p acc = .error .outsideRegisterWindow := by
  unfold busTransaction
  split
  · exact .inr (.inr rfl)
  · split
    · refine .inl ⟨BitVec.ofNat 6 ((acc.addr - p.regBase) / 4), by omega, ?_, rfl⟩
      rw [BitVec.toNat_ofNat, Nat.mod_eq_of_lt (by omega)]; omega
    · exact .inr (.inl rfl)

end Sys2Proof.Machine
end

