-- ==== Sys2Proof/Laws/Exec.lean ====
section
/-! SUPPORT. What each meaning with more than one outcome answers, said once. -/

namespace Sys2Proof.Machine

/-- START is ignored, rejected with code 1 or 2, or accepted. -/
theorem execWrCtrlStart_cases (s : State) (d : Word) :
    (s.phase ≠ 0 ∧ execWrCtrlStart d s = .next s) ∨
    (s.phase = 0 ∧ 2 ^ 61 ≤ s.len.toNat ∧ execWrCtrlStart d s = .next (s.raiseError 1)) ∨
    (s.phase = 0 ∧ s.len.toNat < 2 ^ 61 ∧ s.params.maxLen.val < s.len.toNat ∧
      execWrCtrlStart d s = .next (s.raiseError 2)) ∨
    (s.phase = 0 ∧ s.len.toNat < 2 ^ 61 ∧ s.len.toNat ≤ s.params.maxLen.val ∧
      execWrCtrlStart d s = .next s.acceptStart) := by
  unfold execWrCtrlStart
  by_cases h0 : s.phase = 0
  · rw [if_neg (by simp [busy_iff, h0])]
    by_cases h1 : 2 ^ 61 ≤ s.len.toNat
    · exact .inr (.inl ⟨h0, h1, by rw [if_pos ((lenOverflows_iff s).2 h1)]; rfl⟩)
    · rw [if_neg (by rw [lenOverflows_iff]; exact h1)]
      by_cases h2 : s.params.maxLen.val < s.len.toNat
      · exact .inr (.inr (.inl ⟨h0, by omega, h2, by rw [if_pos ((lenUnsupported_iff s).2 h2)]; rfl⟩))
      · exact .inr (.inr (.inr ⟨h0, by omega, by omega, by rw [if_neg (by rw [lenUnsupported_iff]; exact h2)]⟩))
  · exact .inl ⟨h0, by rw [if_pos ((busy_iff s).2 h0)]⟩

theorem execRdStatus_next (s : State) (h : s.errCode.toNat ≤ 2) : execRdStatus s = .next (s.observe s.statusWord) := by
  unfold execRdStatus
  rw [if_neg (by rw [errorCodeReserved_iff]; omega)]

theorem execRdStatus_reserved (s : State) (h : 3 ≤ s.errCode.toNat) :
    execRdStatus s = .fault (.reservedErrorCode s.errCode) := by
  unfold execRdStatus
  rw [if_pos ((errorCodeReserved_iff s).2 h)]

theorem execRdDigest_done (s : State) (i : BitVec 3) (h : s.done = true) :
    execRdDigest i s = .next (s.observe (s.digestWord i)) := by
  unfold execRdDigest; rw [if_pos h]

theorem execRdDigest_not_done (s : State) (i : BitVec 3) (h : s.done = false) :
    execRdDigest i s = .next (s.observe (Config.digestDraw s.source s.draws)).drawn := by
  unfold execRdDigest; rw [if_neg (by simp [h])]

/-- LOAD where the padder has a block. -/
theorem execLoad_next (s : State) (h1 : s.mlen.toNat < 2 ^ 61) (h2 : s.blk.toNat < s.nblk.toNat) :
    execLoad s = .next s.loadBlock := by
  unfold execLoad
  rw [if_neg (by omega), if_neg (by simp [paddingAssertionHolds_bytes]), if_neg (by omega)]

/-- Everything LOAD can do. -/
theorem execLoad_cases (s : State) :
    (s.mlen.toNat < 2 ^ 61 ∧ s.blk.toNat < s.nblk.toNat ∧ execLoad s = .next s.loadBlock) ∨
    (2 ^ 61 ≤ s.mlen.toNat ∧ execLoad s = .refused .oversizedMessage) ∨
    (s.mlen.toNat < 2 ^ 61 ∧ s.nblk.toNat ≤ s.blk.toNat ∧ execLoad s = .fault .blockIndexOutOfRange) := by
  by_cases h1 : 2 ^ 61 ≤ s.mlen.toNat
  · exact .inr (.inl ⟨h1, by unfold execLoad; rw [if_pos h1]⟩)
  · by_cases h2 : s.nblk.toNat ≤ s.blk.toNat
    · refine .inr (.inr ⟨by omega, h2, ?_⟩)
      unfold execLoad
      rw [if_neg h1, if_neg (by simp [paddingAssertionHolds_bytes]), if_pos h2]
    · exact .inl ⟨by omega, by omega, execLoad_next s (by omega) (by omega)⟩

theorem execExpand_next (s : State) (lo : 16 ≤ s.t.toNat) : execExpand s = .next (s.expandStep lo) := by
  unfold execExpand; rw [dif_pos lo]

theorem execExpand_low (s : State) (h : s.t.toNat < 16) : execExpand s = .fault .scheduleIndexOutOfRange := by
  unfold execExpand; rw [dif_neg (by omega)]

/-! ### The counters -/

theorem t_eq_63_iff (s : State) : s.t = 63 ↔ s.t.toNat = 63 := by
  constructor
  · intro h; rw [h]; rfl
  · intro h; exact BitVec.eq_of_toNat_eq (by simpa using h)

theorem t_add_one (s : State) (h : s.t.toNat < 63) : (s.t + 1).toNat = s.t.toNat + 1 := by
  simp; omega

theorem blk_add_one (s : State) (h : s.blk.toNat < s.nblk.toNat) : (s.blk + 1).toNat = s.blk.toNat + 1 := by
  have := s.nblk.isLt; simp; omega

end Sys2Proof.Machine
end

