-- ==== Sys2Proof/Laws/PerInstr.lean ====
section
/-! SUPPORT. The family TableRow: a well-formed instruction's encoded word is a word of its own row of
spec/opcode_table.json. -/

namespace Sys2Proof.Laws.TableRow

/-- A word of a HOSTTXN row with this mnemonic. -/
abbrev HostRowOf (m : String) (w : BitVec 39) : Prop := ∃ r ∈ hostRows, r.mnemonic = m ∧ w &&& r.mask = r.value

/-- The encoded word matches a row of the opcode table that has the instruction's mnemonic. -/
def Statement (i : Instr) : Prop :=
  i.wf = true →
    match encode i with
    | .hosttxn w => HostRowOf i.mnemonic w
    | .seq c => (i.mnemonic, c) ∈ seqRows

/-- The bits of a write's word that the opcode table looks at: those of its DATA are DATA[0] alone. -/
theorem write_summary (n : BitVec 6) (d : Word) :
    hostWord true n d &&& 0x7f00000001#39 = hostWord true n ((BitVec.ofBool (d.getLsbD 0)).setWidth 32) := by
  rw [hostWord_summary, ← hostData_bit _ 0 (by omega)]
  simp

/-- A write's word is in a row when the word with only DATA[0] kept is. -/
theorem write_row {n : BitVec 6} {d : Word} {m : String}
    (h : HostRowOf m (hostWord true n ((BitVec.ofBool (d.getLsbD 0)).setWidth 32))) : HostRowOf m (hostWord true n d) := by
  obtain ⟨r, hr, h1, h2⟩ := h
  exact ⟨r, hr, h1, by rw [← hostRow_summary _ r hr, write_summary]; exact h2⟩

theorem rdCtrl : Statement .rdCtrl := fun _ => show HostRowOf "RD_CTRL" (hostWord false 0 0) by decide

theorem rdStatus : Statement .rdStatus := fun _ => show HostRowOf "RD_STATUS" (hostWord false 1 0) by decide

theorem rdLenLo : Statement .rdLenLo := fun _ => show HostRowOf "RD_LEN_LO" (hostWord false 2 0) by decide

theorem rdLenHi : Statement .rdLenHi := fun _ => show HostRowOf "RD_LEN_HI" (hostWord false 3 0) by decide

theorem rdRsvdA (n : BitVec 6) : Statement (.rdRsvdA n) :=
  have row : ∀ n : BitVec 6, rsvdA n = true → HostRowOf "RD_RSVD_A" (hostWord false n 0) := by decide
  row n

theorem rdDigest (i : BitVec 3) : Statement (.rdDigest i) :=
  have row : ∀ i : BitVec 3, HostRowOf "RD_DIGEST" (hostWord false (digestIdx i) 0) := by decide
  fun _ => row i

theorem rdRsvdB (n : BitVec 6) : Statement (.rdRsvdB n) :=
  have row : ∀ n : BitVec 6, rsvdB n = true → HostRowOf "RD_RSVD_B" (hostWord false n 0) := by decide
  row n

theorem rdRsvdC (n : BitVec 6) : Statement (.rdRsvdC n) :=
  have row : ∀ n : BitVec 6, rsvdC n = true → HostRowOf "RD_RSVD_C" (hostWord false n 0) := by decide
  row n

theorem wrCtrlStart (d : Word) : Statement (.wrCtrlStart d) := fun h =>
  write_row (m := "WR_CTRL_START") (by rw [show d.getLsbD 0 = true from h]; decide)

theorem wrCtrlNop (d : Word) : Statement (.wrCtrlNop d) := fun h =>
  write_row (m := "WR_CTRL_NOP") (by rw [show d.getLsbD 0 = false by simpa [Instr.wf] using h]; decide)

theorem wrStatus (d : Word) : Statement (.wrStatus d) :=
  have row : ∀ b : Bool, HostRowOf "WR_STATUS" (hostWord true 1 ((BitVec.ofBool b).setWidth 32)) := by decide
  fun _ => write_row (row _)

theorem wrLenLo (d : Word) : Statement (.wrLenLo d) :=
  have row : ∀ b : Bool, HostRowOf "WR_LEN_LO" (hostWord true 2 ((BitVec.ofBool b).setWidth 32)) := by decide
  fun _ => write_row (row _)

theorem wrLenHi (d : Word) : Statement (.wrLenHi d) :=
  have row : ∀ b : Bool, HostRowOf "WR_LEN_HI" (hostWord true 3 ((BitVec.ofBool b).setWidth 32)) := by decide
  fun _ => write_row (row _)

theorem wrRsvdA (n : BitVec 6) (d : Word) : Statement (.wrRsvdA n d) :=
  have row : ∀ (n : BitVec 6) (b : Bool), rsvdA n = true →
    HostRowOf "WR_RSVD_A" (hostWord true n ((BitVec.ofBool b).setWidth 32)) := by decide
  fun h => write_row (row n _ h)

theorem wrDigest (i : BitVec 3) (d : Word) : Statement (.wrDigest i d) :=
  have row : ∀ (i : BitVec 3) (b : Bool),
    HostRowOf "WR_DIGEST" (hostWord true (digestIdx i) ((BitVec.ofBool b).setWidth 32)) := by decide
  fun _ => write_row (row i _)

theorem wrRsvdB (n : BitVec 6) (d : Word) : Statement (.wrRsvdB n d) :=
  have row : ∀ (n : BitVec 6) (b : Bool), rsvdB n = true →
    HostRowOf "WR_RSVD_B" (hostWord true n ((BitVec.ofBool b).setWidth 32)) := by decide
  fun h => write_row (row n _ h)

theorem wrRsvdC (n : BitVec 6) (d : Word) : Statement (.wrRsvdC n d) :=
  have row : ∀ (n : BitVec 6) (b : Bool), rsvdC n = true →
    HostRowOf "WR_RSVD_C" (hostWord true n ((BitVec.ofBool b).setWidth 32)) := by decide
  fun h => write_row (row n _ h)

theorem idle : Statement .idle := fun _ => show ("IDLE", 0) ∈ seqRows by decide

theorem load : Statement .load := fun _ => show ("LOAD", 1) ∈ seqRows by decide

theorem expand : Statement .expand := fun _ => show ("EXPAND", 2) ∈ seqRows by decide

theorem round : Statement .round := fun _ => show ("ROUND", 3) ∈ seqRows by decide

theorem accum : Statement .accum := fun _ => show ("ACCUM", 4) ∈ seqRows by decide

end Sys2Proof.Laws.TableRow
end

