-- ==== Sys2Proof/Laws/Step.lean ====
section
/-! SUPPORT. What one step can do, by the agent that takes it, and the runs of several steps. -/

namespace Sys2Proof.Machine

theorem runCode_ok {c : Code} {i : Instr} (h : decode c = .ok i) (s : State) : runCode c s = exec i s := by
  simp [runCode, h]

theorem hostStep_eq (w : BitVec 39) (s : State) : hostStep w s = exec (decodeHost w) s := runCode_ok rfl s

theorem step_empty (s : State) (h : s.agenda = []) : step s = engineStep s := by
  unfold step; rw [h]

theorem step_event (s : State) (e : Event) (rest : List Event) (h : s.agenda = e :: rest) :
    step s = agentStep e { s with agenda := rest } := by
  unfold step; rw [h]

theorem step_engineNext (s : State) (h : EngineNext s) : step s = engineStep { s with agenda := s.agenda.tail } := by
  rcases h with h | ⟨rest, h⟩
  · unfold step; rw [h]; simp only [List.tail_nil]; congr 1; cases s; simp_all
  · unfold step; rw [h]; rfl

/-- Everything a platform access can do. -/
theorem busStep_cases (acc : BusAccess) (s : State) :
    (∃ n : BitVec 6, acc.size = 4 ∧ acc.addr = s.params.regBase + 4 * n.toNat ∧
      busStep acc s = hostStep (hostWord acc.write n (if acc.write then acc.data else 0)) s) ∨
    busStep acc s = .refused .unsupportedBusAccess ∨ busStep acc s = .refused .outsideRegisterWindow := by
  unfold busStep
  rcases busTransaction_cases s.params acc with ⟨n, h1, h2, h⟩ | h | h
  · exact .inl ⟨n, h1, h2, by rw [h]⟩
  · exact .inr (.inl (by rw [h]))
  · exact .inr (.inr (by rw [h]))

/-- The micro-step a phase selects (46_sequencer.md R128). -/
theorem engineStep_idle (s : State) (p : s.phase = 0) : engineStep s = .next s := by
  rw [engineStep, runCode_ok (i := .idle) (by simp [decode, decodeSeq, p])]; rfl

theorem engineStep_load (s : State) (p : s.phase = 1) : engineStep s = execLoad s := by
  rw [engineStep, runCode_ok (i := .load) (by simp [decode, decodeSeq, p])]; rfl

theorem engineStep_expand (s : State) (p : s.phase = 2) : engineStep s = execExpand s := by
  rw [engineStep, runCode_ok (i := .expand) (by simp [decode, decodeSeq, p])]; rfl

theorem engineStep_round (s : State) (p : s.phase = 3) : engineStep s = .next s.roundStep := by
  rw [engineStep, runCode_ok (i := .round) (by simp [decode, decodeSeq, p])]; rfl

theorem engineStep_accum (s : State) (p : s.phase = 4) : engineStep s = .next s.accumStep := by
  rw [engineStep, runCode_ok (i := .accum) (by simp [decode, decodeSeq, p])]; rfl

theorem engineStep_unreachable (s : State) (h : 5 ≤ s.phase.toNat) :
    engineStep s = .fault (.unreachablePhase s.phase) := by
  have : ∀ c : BitVec 3, 5 ≤ c.toNat → decodeSeq c = .error (.unreachablePhase c) := by decide
  simp [engineStep, runCode, decode, this s.phase h]

/-- Everything a completed engine step can have done. -/
theorem engineStep_cases (s t : State) (h : engineStep s = .next t) :
    (s.phase = 0 ∧ t = s) ∨
    (s.phase = 1 ∧ s.mlen.toNat < 2 ^ 61 ∧ s.blk.toNat < s.nblk.toNat ∧ t = s.loadBlock) ∨
    (s.phase = 2 ∧ ∃ lo, t = s.expandStep lo) ∨ (s.phase = 3 ∧ t = s.roundStep) ∨
    (s.phase = 4 ∧ t = s.accumStep) := by
  have all : ∀ c : BitVec 3, c = 0 ∨ c = 1 ∨ c = 2 ∨ c = 3 ∨ c = 4 ∨ 5 ≤ c.toNat := by decide
  rcases all s.phase with p | p | p | p | p | p
  · rw [engineStep_idle s p] at h; cases h; exact .inl ⟨p, rfl⟩
  · rw [engineStep_load s p] at h
    rcases execLoad_cases s with ⟨a, b, c⟩ | ⟨a, c⟩ | ⟨a, b, c⟩ <;> rw [c] at h <;> cases h
    exact .inr (.inl ⟨p, a, b, rfl⟩)
  · rw [engineStep_expand s p] at h
    by_cases lo : 16 ≤ s.t.toNat
    · rw [execExpand_next s lo] at h; cases h; exact .inr (.inr (.inl ⟨p, lo, rfl⟩))
    · rw [execExpand_low s (by omega)] at h; cases h
  · rw [engineStep_round s p] at h; cases h; exact .inr (.inr (.inr (.inl ⟨p, rfl⟩)))
  · rw [engineStep_accum s p] at h; cases h; exact .inr (.inr (.inr (.inr ⟨p, rfl⟩)))
  · rw [engineStep_unreachable s p] at h; cases h

/-! ### Runs -/

theorem run_zero (M : Host.Core) (s : M.State) : M.run 0 s = .next s := by simp [Host.Core.run]

theorem run_cons (M : Host.Core) (k : Nat) (s t : M.State) (h : M.step s = .next t) : M.run (k + 1) s = M.run k t := by
  simp [Host.Core.run, h]

theorem run_snoc (M : Host.Core) (k : Nat) (s t : M.State) (h : M.run k s = .next t) : M.run (k + 1) s = M.step t := by
  induction k generalizing s with
  | zero =>
    rw [run_zero] at h; cases h
    unfold Host.Core.run
    split
    · next e => rw [run_zero, e]
    · next e => rw [e]
    · next e => rw [e]
  | succ k ih =>
    unfold Host.Core.run at h ⊢
    split at h
    · exact ih _ h
    · cases h
    · cases h

end Sys2Proof.Machine
end

