-- ==== Sys2Proof/Tests/Slice0.lean ====
section
/-! SUPPORT. The tests. Expected results come from the spec: the words are written out from the fields of 30_encoding.md
R58 and R59, the values from spec/95_test_vectors.md. The second half holds one witness per clause of the statements'
hypotheses. -/

namespace Sys2Proof.Tests

open Sys2Proof.Machine

/-! ### Well-formedness: each check refuses an ill-formed term -/

theorem test_wf_rdRsvdA : Instr.wf (.rdRsvdA 3) = false ∧ Instr.wf (.rdRsvdA 8) = false := by decide
theorem test_wf_rdRsvdB : Instr.wf (.rdRsvdB 15) = false ∧ Instr.wf (.rdRsvdB 32) = false := by decide
theorem test_wf_rdRsvdC : Instr.wf (.rdRsvdC 31) = false := by decide
theorem test_wf_wrRsvdA : Instr.wf (.wrRsvdA 3 0) = false ∧ Instr.wf (.wrRsvdA 8 0) = false := by decide
theorem test_wf_wrRsvdB : Instr.wf (.wrRsvdB 15 0) = false ∧ Instr.wf (.wrRsvdB 32 0) = false := by decide
theorem test_wf_wrRsvdC : Instr.wf (.wrRsvdC 31 0) = false := by decide
theorem test_wf_wrCtrlStart : Instr.wf (.wrCtrlStart 0xfffffffe) = false := by decide
theorem test_wf_wrCtrlNop : Instr.wf (.wrCtrlNop 1) = false := by decide

/-! ### Decoding: one word per constructor, RW, IDX and DATA written out -/

theorem test_decode_rdCtrl :
    decode (.hosttxn 0b0_000000_00000000000000000000000000000000) = .ok .rdCtrl := by decide
theorem test_decode_rdStatus :
    decode (.hosttxn 0b0_000001_00000000000000000000000000000000) = .ok .rdStatus := by decide
theorem test_decode_rdLenLo :
    decode (.hosttxn 0b0_000010_00000000000000000000000000000000) = .ok .rdLenLo := by decide
/-- A read ignores DATA (R58). -/
theorem test_decode_rdLenHi :
    decode (.hosttxn 0b0_000011_11111111111111111111111111111111) = .ok .rdLenHi := by decide
theorem test_decode_rdRsvdA :
    decode (.hosttxn 0b0_000111_00000000000000000000000000000000) = .ok (.rdRsvdA 7) := by decide
theorem test_decode_rdDigest :
    decode (.hosttxn 0b0_001111_00000000000000000000000000000000) = .ok (.rdDigest 7) := by decide
theorem test_decode_rdRsvdB :
    decode (.hosttxn 0b0_010000_00000000000000000000000000000000) = .ok (.rdRsvdB 16) := by decide
theorem test_decode_rdRsvdC :
    decode (.hosttxn 0b0_111111_00000000000000000000000000000000) = .ok (.rdRsvdC 63) := by decide
theorem test_decode_wrCtrlStart :
    decode (.hosttxn 0b1_000000_11111111111111111111111111111111) = .ok (.wrCtrlStart 0xffffffff) := by decide
theorem test_decode_wrCtrlNop :
    decode (.hosttxn 0b1_000000_11111111111111111111111111111110) = .ok (.wrCtrlNop 0xfffffffe) := by decide
theorem test_decode_wrStatus :
    decode (.hosttxn 0b1_000001_11111111111111111111111111111111) = .ok (.wrStatus 0xffffffff) := by decide
theorem test_decode_wrLenLo :
    decode (.hosttxn 0b1_000010_00000000000000000000000000111000) = .ok (.wrLenLo 56) := by decide
theorem test_decode_wrLenHi :
    decode (.hosttxn 0b1_000011_00100000000000000000000000000000) = .ok (.wrLenHi 0x20000000) := by decide
theorem test_decode_wrRsvdA :
    decode (.hosttxn 0b1_000100_00000000000000000000000000000001) = .ok (.wrRsvdA 4 1) := by decide
theorem test_decode_wrDigest :
    decode (.hosttxn 0b1_001111_00010010001101000101011001111000) = .ok (.wrDigest 7 0x12345678) := by decide
theorem test_decode_wrRsvdB :
    decode (.hosttxn 0b1_011111_11111111111111111111111111111111) = .ok (.wrRsvdB 31 0xffffffff) := by decide
theorem test_decode_wrRsvdC :
    decode (.hosttxn 0b1_100000_00000000000000000000000000000001) = .ok (.wrRsvdC 32 1) := by decide
theorem test_decode_idle : decode (.seq 0b000) = .ok .idle := by decide
theorem test_decode_load : decode (.seq 0b001) = .ok .load := by decide
theorem test_decode_expand : decode (.seq 0b010) = .ok .expand := by decide
theorem test_decode_round : decode (.seq 0b011) = .ok .round := by decide
theorem test_decode_accum : decode (.seq 0b100) = .ok .accum := by decide

/-- The codes of R59 no step has. -/
theorem test_decode_unreachable :
    decode (.seq 0b101) = .error (.unreachablePhase 5) ∧ decode (.seq 0b110) = .error (.unreachablePhase 6) ∧
      decode (.seq 0b111) = .error (.unreachablePhase 7) := by decide

/-- Bytes that are no code are refused by name (log 3). -/
theorem test_decodeBytes_refuses :
    decodeBytes [] = .error (.wrongLength 0) ∧ decodeBytes [0x08] = .error .strayBits ∧
      decodeBytes [0, 0] = .error (.wrongLength 2) ∧ decodeBytes [0, 0, 0, 0, 0x80] = .error .strayBits ∧
      decodeBytes [0x05] = .error (.badCode (.unreachablePhase 5)) := by decide

/-- The words of spec/opcode_table.json, by width and value. -/
theorem test_decodeTableWord :
    decodeTableWord 39 0x4320000000 = some (.wrLenHi 0x20000000) ∧ decodeTableWord 40 0x0f00000000 = some (.rdDigest 7) ∧
      decodeTableWord 3 4 = some .accum ∧ decodeTableWord 8 5 = none ∧ decodeTableWord 40 0x8000000000 = none := by
  decide

/-- No two HOSTTXN rows of the table share a word: where both masks look, their values differ. -/
theorem test_rows_disjoint :
    hostRows.Pairwise fun r r' => r.value &&& (r.mask &&& r'.mask) ≠ r'.value &&& (r.mask &&& r'.mask) := by decide

/-! ### Small states -/

/-- The next state, where there is one. -/
def after (r : Result) : Option State :=
  match r with
  | .next s => some s
  | .fault _ => none
  | .refused _ => none

/-- Why the step faulted, where it did. -/
def faultOf (r : Result) : Option Fault :=
  match r with
  | .next _ => none
  | .fault f => some f
  | .refused _ => none

/-- Why the step was refused, where it was. -/
def refusalOf (r : Result) : Option Refusal :=
  match r with
  | .next _ => none
  | .fault _ => none
  | .refused f => some f

def abc : List Byte := [0x61, 0x62, 0x63]

/-- Idle, "abc" in the message memory, LEN = 3. -/
def abcIdle : State := { State.reset with len := 3, msg := [(0, 0x61), (1, 0x62), (2, 0x63)] }

/-- BUSY = 1, as after an accepted START for "abc" (V-H16). -/
def abcBusy : State := { abcIdle with phase := 1, mlen := 3, nblk := 1, blk := 0, H := IV }

/-- The digest words of "abc" (E1). -/
def abcDigest : Vector Word 8 :=
  #v[0xba7816bf, 0x8f01cfea, 0x414140de, 0x5dae2223, 0xb00361a3, 0x96177a9c, 0xb410ff61, 0xf20015ad]

/-- Idle, with the digest of "abc" published. -/
def abcDone : State := { abcIdle with done := true, H := abcDigest, mlen := 3, blk := 1 }

/-- Idle, with LEN_OVERFLOW recorded (V-E1). -/
def rejected : State := { State.reset with err := true, errCode := 1, len := 0x2000000000000000 }

/-- In ACCUM, with the working state after the last round of "abc" (V-A3). -/
def abcAccum : State :=
  { abcBusy with
    phase := 4, t := 63,
    ws := ⟨0x506e3058, 0xd39a2165, 0x04d24d6c, 0xb85e2ce9, 0x5ef50f24, 0xfb121210, 0x948d25b6, 0x961f4894⟩ }

/-- The second block of a 56-byte message (V-Q11). -/
def secondBlock : State := { State.reset with phase := 1, mlen := 56, nblk := 2, blk := 1 }

/-! ### Host transactions (V-H rows) -/

/-- V-H2. -/
theorem test_rdCtrl : (after (exec .rdCtrl abcBusy)).map (·.observed) = some [0x00000000] := by decide
/-- V-H4. -/
theorem test_rdStatus_busy : (after (exec .rdStatus abcBusy)).map (·.observed) = some [0x00000001] := by decide
/-- V-H29's status. -/
theorem test_rdStatus_error : (after (exec .rdStatus rejected)).map (·.observed) = some [0x00000014] := by decide
/-- V-H6. -/
theorem test_rdLenLo : (after (exec .rdLenLo abcIdle)).map (·.observed) = some [0x00000003] := by decide
/-- V-H7. -/
theorem test_rdLenHi : (after (exec .rdLenHi rejected)).map (·.observed) = some [0x20000000] := by decide
/-- V-H9. -/
theorem test_rdDigest : (after (exec (.rdDigest 3) abcDone)).map (·.observed) = some [0x5dae2223] := by decide
/-- V-H11: the value is any Word; the read completes and the counter moves on. -/
theorem test_rdDigest_draw : (after (exec (.rdDigest 0) abcBusy)).map (fun s => (s.observed.length, s.draws)) = some (1, 1) :=
  rfl
/-- V-H13. -/
theorem test_rdRsvdA : (after (exec (.rdRsvdA 7) abcDone)).map (·.observed) = some [0x00000000] := by decide
/-- V-H14. -/
theorem test_rdRsvdB : (after (exec (.rdRsvdB 16) abcDone)).map (·.observed) = some [0x00000000] := by decide
/-- V-H15. -/
theorem test_rdRsvdC : (after (exec (.rdRsvdC 63) abcDone)).map (·.observed) = some [0x00000000] := by decide
/-- V-H16. -/
theorem test_wrCtrlStart_accepted : (after (exec (.wrCtrlStart 1) abcIdle)).map
    (fun s => (s.phase, s.mlen, s.nblk, s.blk, s.H[0], s.statusWord)) = some (1, 3, 1, 0, 0x6a09e667, 0x00000001) := by
  decide
/-- V-H25: LEN_OVERFLOW has priority over LEN_UNSUPPORTED. -/
theorem test_wrCtrlStart_rejected :
    (after (exec (.wrCtrlStart 1) { rejected with params := ⟨1000, 0, []⟩ })).map (·.statusWord) = some 0x00000014 := by decide
/-- V-H27. -/
theorem test_wrCtrlNop : after (exec (.wrCtrlNop 0xfffffffe) abcDone) = some abcDone := by decide
/-- V-H29. -/
theorem test_wrStatus : after (exec (.wrStatus 0xffffffff) rejected) = some rejected := by decide
/-- V-H30. -/
theorem test_wrLenLo :
    (after (exec (.wrLenLo 56) { State.reset with len := 0x0000000500000000 })).map (·.len) = some 0x0000000500000038 := by
  decide
/-- V-H31: LEN may be written while BUSY = 1; mlen stays. -/
theorem test_wrLenLo_busy : (after (exec (.wrLenLo 0) abcBusy)).map (fun s => (s.len, s.mlen)) = some (0, 3) := by decide
/-- V-H32. -/
theorem test_wrLenHi :
    (after (exec (.wrLenHi 0x20000000) { State.reset with len := 0x38 })).map (·.len) = some 0x2000000000000038 := by decide
/-- V-H35. -/
theorem test_wrRsvdA : after (exec (.wrRsvdA 4 1) abcDone) = some abcDone := by decide
/-- V-H33. -/
theorem test_wrDigest : after (exec (.wrDigest 0 0) abcDone) = some abcDone := by decide
/-- V-H37. -/
theorem test_wrRsvdB : after (exec (.wrRsvdB 16 0xffffffff) abcDone) = some abcDone := by decide
/-- V-H36. -/
theorem test_wrRsvdC : after (exec (.wrRsvdC 63 1) abcDone) = some abcDone := by decide

/-! ### Micro-steps (V-Q rows) -/

/-- V-Q9. -/
theorem test_idle : after (exec .idle abcDone) = some abcDone := by decide
/-- V-Q1. -/
theorem test_load : (after (exec .load abcBusy)).map
    (fun s => (s.W[0], s.W[1], s.W[15], s.ws.a, s.ws.h, s.t, s.phase)) =
      some (0x61626380, 0x00000000, 0x00000018, 0x6a09e667, 0x5be0cd19, 16, 2) := by decide
/-- V-Q11: the last block of a 56-byte message reads no message byte. -/
theorem test_load_lengthBlock :
    (after (exec .load secondBlock)).map (fun s => (s.W[0], s.W[14], s.W[15])) = some (0, 0, 0x000001c0) := by decide
/-- V-M1: W[27] wraps (V-M3). -/
theorem test_expand :
    (after (exec .expand
      { State.reset with
        phase := 2, t := 27, W := ((State.reset.W.set 25 0xb73679a2).set 20 0x3e9d7b78) })).map
      (fun s => (s.W[27], s.t, s.phase)) = some (0x32663c5b, 28, 2) := by decide
/-- V-Q4: after t = 63, the phase is ROUND and t is 0. -/
theorem test_expand_last :
    (after (exec .expand
      { State.reset with
        phase := 2, t := 63,
        W := ((((State.reset.W.set 61 0x668b2ff8).set 56 0xef57b9cd).set 48 0xfb3e89cb).set 47 0x065c43da) })).map
      (fun s => (s.W[63], s.t, s.phase)) = some (0x12b1edeb, 0, 3) := by decide
/-- V-Q5. -/
theorem test_round :
    (after (exec .round
      { State.reset with phase := 3, t := 0, ws := seedWorking IV, W := State.reset.W.set 0 0x61626380 })).map
      (fun s => (s.ws, s.t, s.phase)) =
      some (⟨0x5d6aebcd, 0x6a09e667, 0xbb67ae85, 0x3c6ef372, 0xfa2a4622, 0x510e527f, 0x9b05688c, 0x1f83d9ab⟩, 1, 3) := by
  decide
/-- V-Q7: row 63 of V-R1 from row 62; t stays and the phase is ACCUM. -/
theorem test_round_last :
    (after (exec .round
      { State.reset with
        phase := 3, t := 63, W := State.reset.W.set 63 0x12b1edeb,
        ws := ⟨0xd39a2165, 0x04d24d6c, 0xb85e2ce9, 0xb6ae8fff, 0xfb121210, 0x948d25b6, 0x961f4894, 0xb21bad3d⟩ })).map
      (fun s => (s.ws, s.t, s.phase)) =
      some (⟨0x506e3058, 0xd39a2165, 0x04d24d6c, 0xb85e2ce9, 0x5ef50f24, 0xfb121210, 0x948d25b6, 0x961f4894⟩, 63, 4) := by
  decide
/-- V-Q8. -/
theorem test_accum_last : (after (exec .accum abcAccum)).map (fun s => (s.H, s.blk, s.phase, s.statusWord)) =
    some (abcDigest, 1, 0, 0x00000002) := by decide
/-- V-Q10: another block follows. -/
theorem test_accum_more : (after (exec .accum { abcAccum with nblk := 2 })).map (fun s => (s.blk, s.phase, s.statusWord)) =
    some (1, 1, 0x00000001) := by decide

/-! ### The datapath (V-W, V-P, V-O rows) -/

/-- V-W1, V-W4, V-W8, V-W20, V-W24. -/
theorem test_wordOps :
    add32 0xffffffff 0x00000001 = 0 ∧ sumWords (List.replicate 5 0xffffffff) = 0xfffffffb ∧
      rotr 0xdeadbeef 13 = 0xf77ef56d ∧ ch 0xf0f0f0f0 0xaaaaaaaa 0x55555555 = 0xa5a5a5a5 ∧
      maj 0xf0f0f0f0 0xff00ff00 0x0ff00ff0 = 0xfff0fff0 := by decide
/-- The row of x = 510e527f in 2.1. -/
theorem test_sigmas :
    ssig0 0x510e527f = 0x601c02a8 ∧ ssig1 0x510e527f = 0xe3640132 ∧ bsig0 0x510e527f = 0x7ef0e1a9 ∧
      bsig1 0x510e527f = 0x3587272b := by decide
/-- V-W25, V-W27, V-W28. -/
theorem test_converters :
    be32 0x61 0x62 0x63 0x80 = 0x61626380 ∧ bytes32 0xba7816bf 1 = 0x78 ∧ bytes64 0x00000000000001c0 6 = 0x01 := by decide
/-- V-P4, V-P5, V-P12. -/
theorem test_padding :
    padZeroBits 440 = 7 ∧ padZeroBits 448 = 511 ∧ blockCount 55 = 1 ∧ blockCount 56 = 2 ∧
      paddedLength (2 ^ 61 - 1) = 2 ^ 61 + 64 ∧ blockCount (2 ^ 61 - 1) = 2 ^ 55 + 1 := by decide
/-- V-P16, V-P17, V-P24. -/
theorem test_padByte :
    padByte 3 1 (fun i h => abc[i]'h) 2 = 0x63 ∧ padByte 3 1 (fun i h => abc[i]'h) 3 = 0x80 ∧
      padByte (2 ^ 61 - 1) (2 ^ 55 + 1) (fun _ _ => 0) (2 ^ 61 + 63) = 0xf8 := by decide
/-- V-O2, V-O3. -/
theorem test_encodeDigest :
    (encodeDigest abcDigest)[0] = 0xba ∧ (encodeDigest abcDigest)[3] = 0xbf ∧ (encodeDigest abcDigest)[28] = 0xf2 := by
  decide

/-! ### The agents -/

/-- A stored byte is read back, and the list stays in rising order. -/
theorem test_store :
    (after (step { abcIdle with agenda := [.store 1 0x7a] })).map (·.msg) = some [(0, 0x61), (1, 0x7a), (2, 0x63)] := by
  decide
/-- The message is read through MSG_MAP (20_memory.md R39): "abc" at the locations 0x100 to 0x102, last byte first. -/
theorem test_msgMap :
    (after (exec .load
      { abcBusy with
        params := ⟨1000, 0, [⟨0, 0x102, 1⟩, ⟨1, 0x101, 1⟩, ⟨2, 0x100, 1⟩]⟩,
        msg := [(0, 0xff), (0x100, 0x63), (0x101, 0x62), (0x102, 0x61)] })).map (fun s => s.W[0]) = some 0x61626380 := by
  decide
/-- An ERRCODE that is never produced (93_implementation_defined.md I7). -/
theorem test_reservedErrorCode :
    faultOf (exec .rdStatus { rejected with errCode := 3 }) = some (.reservedErrorCode 3) := by decide
/-- V-E8: reset after DONE = 1. -/
theorem test_reset : (after (step { abcDone with agenda := [.reset] })).map (fun s => (s.statusWord, s.len, s.msg)) =
    some (0x00000000, 0, [(0, 0x61), (1, 0x62), (2, 0x63)]) := by decide
/-- 20_memory.md R43: index 2 over the bus is LEN_LO; a byte access is refused. -/
theorem test_bus :
    (after (step { abcIdle with agenda := [.bus ⟨8, 4, false, 0⟩] })).map (·.observed) = some [0x00000003] ∧
      refusalOf (step { abcIdle with agenda := [.bus ⟨8, 1, false, 0⟩] }) = some .unsupportedBusAccess := by decide
/-- Phase code 5 has no step (R59). -/
theorem test_unreachable : faultOf (step { abcBusy with phase := 5 }) = some (.unreachablePhase 5) := by decide
/-- A word placed at the fetch is the very next step (log 2). -/
theorem test_withFetchWord :
    (after (step (State.reset.withFetchWord 39 0x4200000038))).map (·.len) = some 56 ∧
      (after (step (State.reset.withFetchWord 3 1))).map (·.phase) = some 2 := by decide

/-! ### Witnesses: states and operands that meet the statements' hypotheses

Each is named after its statement. -/

theorem witness_DecodeOfEncode : Instr.wf (.rdRsvdA 4) = true ∧ Instr.wf (.rdRsvdB 31) = true ∧
    Instr.wf (.wrRsvdC 63 0xffffffff) = true ∧ Instr.wf (.wrCtrlStart 1) = true ∧ Instr.wf (.wrCtrlNop 0) = true := by
  decide

theorem witness_DecodeFollowsOpcodeTable : ∃ r' ∈ hostRows, (0x7fffffffff : BitVec 39) &&& r'.mask = r'.value := by decide

theorem witness_StepRunsDecodedInstruction :
    ({ abcIdle with agenda := [.host 0x4000000001] } : State).agenda = .host 0x4000000001 :: [] ∧
      decode (.hosttxn 0x4000000001) = .ok (.wrCtrlStart 1) ∧ EngineNext abcBusy ∧
      EngineNext { abcBusy with agenda := [.engine, .reset] } ∧ decode (.seq abcBusy.phase) = .ok .load :=
  ⟨rfl, rfl, .inl rfl, .inr ⟨[.reset], rfl⟩, rfl⟩

theorem witness_UnreachablePhaseFaults :
    EngineNext { abcBusy with phase := 5 } ∧ 5 ≤ (5 : BitVec 3).toNat ∧ 5 ≤ (7 : BitVec 3).toNat :=
  ⟨.inl rfl, by decide, by decide⟩

/-- Index 0, index 63, the last byte of the window, the first one past it, and an access below it. -/
theorem witness_BusAccessIsTransactionOrRefused :
    (0x1000 : Nat) = 0x1000 + 4 * (0 : BitVec 6).toNat ∧ 0x10fc = 0x1000 + 4 * (63 : BitVec 6).toNat ∧
      (0x1000 ≤ 0x10ff ∧ 0x10ff < 0x1000 + 256 ∧ (0x10ff - 0x1000) % 4 ≠ 0) ∧ 0x1000 + 256 ≤ 0x1100 ∧ 0xfff < 0x1000 := by
  decide

theorem witness_HostStoreWritesOneByte :
    ({ abcIdle with agenda := [.store (2 ^ 61 - 2) 1] } : State).agenda = .store (2 ^ 61 - 2) 1 :: [] := rfl

/-- A write while busy is recorded, one while idle is not; and a START is accepted. -/
theorem witness_RacingByteIsOneItHeld : abcBusy.messageOverwritten 2 = [] ∧
    (abcBusy.storeByte 2 0).messageOverwritten 2 = [0x63] ∧ (abcBusy.storeByte 2 0).messageOverwritten 1 = [] ∧
    (abcIdle.storeByte 2 0).messageOverwritten 2 = [] ∧ abcIdle.phase = 0 ∧
    abcIdle.len.toNat ≤ abcIdle.params.maxLen.val := by decide

theorem witness_ResetStepLeavesIdleEngine : ({ abcBusy with agenda := [.reset] } : State).agenda = .reset :: [] := rfl

theorem witness_RdCtrlYieldsZero : hostKey 0x00ffffffff = 0x00 := by decide

theorem witness_RdStatusYieldsStatusWord : hostKey 0x0100000000 = 0x01 ∧
    ({ rejected with errCode := 2 } : State).errCode.toNat ≤ 2 := by decide

theorem witness_RdLenYieldsHalves : hostKey 0x0200000000 = 0x02 ∧ hostKey 0x0300000000 = 0x03 := by decide

theorem witness_RdDigestYieldsHashWord : hostKey 0x0800000000 = 0x08 + (0 : BitVec 3).setWidth 7 ∧
    hostKey 0x0f00000000 = 0x08 + (7 : BitVec 3).setWidth 7 ∧ abcDone.done = true ∧ abcBusy.done = false := by decide

theorem witness_RdReservedYieldsZero : (0x0700000000 : BitVec 39).getLsbD 38 = false ∧
    (4 ≤ (hostIdx 0x0700000000).toNat ∧ (hostIdx 0x0700000000).toNat ≤ 7) ∧
    (0x1000000000 : BitVec 39).getLsbD 38 = false ∧ 16 ≤ (hostIdx 0x1000000000).toNat := by decide

/-- Each clause at its boundary: LEN = 2^61, LEN one above MAX_LEN, LEN = MAX_LEN. -/
theorem witness_StartIsIgnoredRejectedOrAccepted :
    hostKey 0x40ffffffff = 0x40 ∧ (0x40ffffffff : BitVec 39).getLsbD 0 = true ∧ abcBusy.phase ≠ 0 ∧
    (rejected.phase = 0 ∧ rejected.len.toNat = 2 ^ 61) ∧
    (let s : State := { State.reset with len := 1001, params := ⟨1000, 0, []⟩ }
     s.phase = 0 ∧ s.len.toNat < 2 ^ 61 ∧ s.params.maxLen.val < s.len.toNat) ∧
    (let s : State := { State.reset with len := 0x1fffffffffffffff }
     s.phase = 0 ∧ s.len.toNat < 2 ^ 61 ∧ s.len.toNat = s.params.maxLen.val) := by decide

theorem witness_LenOverflowIsTopThreeBits : rejected.phase = 0 ∧ rejected.len.extractLsb' 61 3 ≠ 0 := by decide

theorem witness_IgnoredWritesChangeNothing :
    (0x40fffffffe : BitVec 39).getLsbD 38 = true ∧ hostIdx 0x40fffffffe = 0 ∧ (0x40fffffffe : BitVec 39).getLsbD 0 = false ∧
    (0x41ffffffff : BitVec 39).getLsbD 38 = true ∧ hostIdx 0x41ffffffff = 1 ∧
    (0x4400000001 : BitVec 39).getLsbD 38 = true ∧ 4 ≤ (hostIdx 0x4400000001).toNat := by decide

theorem witness_WrLenStoresHalves : hostKey 0x4200000038 = 0x42 ∧ hostKey 0x4320000000 = 0x43 ∧
    0x20000000 ≤ (0x20000000 : Word).toNat ∧ (1 : Word).getLsbD 0 = true ∧ (abcIdle.setLenHi 0x20000000).phase = 0 := by
  decide

theorem witness_HostTransactionsAlwaysComplete :
    Instr.isHost .rdStatus = true ∧ Instr.isRead .rdStatus = true ∧ rejected.errCode.toNat ≤ 2 ∧ Instr.isHost (.wrCtrlStart 1) = true ∧
      Instr.isRead (.wrCtrlStart 1) = false := by decide

/-- An accepted START changes H, the phase, nblk and mlen, LOAD the working state, W and t, ACCUM H, blk and DONE. -/
theorem witness_OnlyTheNamedWritersWrite :
    exec (.wrCtrlStart 1) abcIdle = .next abcIdle.acceptStart ∧ abcIdle.acceptStart.H ≠ abcIdle.H ∧
      abcIdle.acceptStart.mlen ≠ abcIdle.mlen ∧ exec .accum abcAccum = .next abcAccum.accumStep ∧
      abcAccum.accumStep.blk ≠ abcAccum.blk ∧ abcAccum.accumStep.done ≠ abcAccum.done :=
  ⟨rfl, by decide, by decide, rfl, by decide, by decide⟩

theorem witness_PseudoInstructionsExpand : regLegal (.rsvd 4) = true ∧ regLegal (.rsvd 63) = true ∧
    regLegal (.digest 7) = true ∧
    ({ State.reset with agenda := lineEvents (asmSetLen 0x2000000000000005) } : State).agenda =
      lineEvents (asmSetLen 0x2000000000000005) ++ [] := by decide

theorem witness_IdleChangesNothing : EngineNext abcDone ∧ abcDone.phase = 0 := ⟨.inl rfl, rfl⟩

/-- The longest message, at its last block. -/
theorem witness_LoadDecodesTheBlock :
    let s : State := { secondBlock with mlen := 0x1fffffffffffffff, nblk := 0x80000000000001, blk := 0x80000000000000 }
    s.mlen.toNat < 2 ^ 61 ∧ s.blk.toNat < s.nblk.toNat := by decide

theorem witness_LoadStopsOnlyOutOfRange :
    2 ^ 61 ≤ ({ secondBlock with mlen := 0x2000000000000000 } : State).mlen.toNat ∧
      secondBlock.mlen.toNat < 2 ^ 61 ∧ ({ secondBlock with blk := 2 } : State).nblk.toNat ≤ 2 ∧
      secondBlock.blk.toNat < secondBlock.nblk.toNat := by decide

theorem witness_ExpandComputesOneWord : 16 ≤ ({ abcBusy with t := 16 } : State).t.toNat ∧
    ({ abcBusy with t := 62 } : State).t.toNat < 63 ∧ ({ abcBusy with t := 63 } : State).t.toNat = 63 := by decide

theorem witness_ExpandBelowSixteenFaults : ({ abcBusy with t := 15 } : State).t.toNat < 16 := by decide

theorem witness_RoundRewritesWorkingState : ({ abcBusy with t := 62 } : State).t.toNat < 63 ∧
    ({ abcBusy with t := 63 } : State).t.toNat = 63 := by decide

theorem witness_AccumAddsIntoHash : abcAccum.blk.toNat + 1 = abcAccum.nblk.toNat ∧
    ({ abcAccum with nblk := 2 } : State).blk.toNat + 1 ≠ ({ abcAccum with nblk := 2 } : State).nblk.toNat := by decide

theorem witness_WordSumsWrapInAnyOrder : ([1, 2, 0xffffffff] : List Word).Perm [0xffffffff, 1, 2] := by decide

theorem witness_RotrMovesBits : 0 < 1 ∧ 1 < 32 ∧ 31 < 32 := by decide

/-- The last bit that a shift by 3 or by 10 keeps, and the first it fills with 0. -/
theorem witness_SigmaBitsAreXors : 28 + 3 < 32 ∧ ¬ 29 + 3 < 32 ∧ 21 + 10 < 32 ∧ ¬ 22 + 10 < 32 ∧ 29 < 32 := by decide

theorem witness_ChChoosesAndMajVotes : 0 < 32 ∧ 31 < 32 := by decide

theorem witness_ByteConvertersAreBigEndian : 3 < 4 ∧ 7 < 8 := by decide

theorem witness_PaddingArithmeticHolds : 440 % 8 = 0 ∧ padRemainder 440 ≤ 448 ∧ 448 % 8 = 0 ∧ 448 < padRemainder 448 := by
  decide

theorem witness_PaddedLengthIsLeastMultiple : ([] : List Byte).length + 9 ≤ 64 * 1 := by decide

theorem witness_PadByteIsPaddedMessage : 63 < 64 * blockCount abc.length := by decide

theorem witness_LengthRoundTrip : abc.length < 2 ^ 61 := by decide

/-- The last length whose padding fits its block, the first whose padding does not, and a block before the last bytes. -/
theorem witness_BlockContents : (List.replicate 55 (0x61 : Byte)).length = 64 * 0 + 55 ∧
    (List.replicate 120 (0x61 : Byte)).length = 64 * 1 + 56 := by simp

theorem witness_EachOffsetIsReadOnce : abcBusy.mlen.toNat < 2 ^ 61 ∧ abcBusy.blk.toNat < abcBusy.nblk.toNat ∧
    2 ∈ loadOffsets abcBusy.mlen.toNat abcBusy.blk.toNat ∧ 2 < 3 ∧ 3 ≤ 3 ∧ 63 < 64 := by decide

/-- Bytes beyond mlen differ. -/
theorem witness_LoadDependsOnReadOffsetsOnly :
    (∀ i ∈ loadOffsets abcBusy.mlen.toNat abcBusy.blk.toNat,
      ({ abcBusy with msg := [(0, 0x61), (1, 0x62), (2, 0x63), (3, 0xff)] } : State).portByte i = abcBusy.portByte i) ∧
      exec .load abcBusy = .next abcBusy.loadBlock :=
  ⟨by decide, rfl⟩

theorem witness_DigestBytesAreBigEndian : 7 < 8 ∧ 3 < 4 := by decide

/-- The invariants hold in a busy state. -/
theorem abcBusy_inv : EngineInv abcBusy := by constructor <;> decide

theorem abcDone_inv : EngineInv abcDone := by constructor <;> decide

theorem witness_RdStatusYieldsStatusWord_inv : EngineInv abcBusy ∧ abcBusy.phase ≠ 0 := ⟨abcBusy_inv, by decide⟩

theorem abcBusy_step : step abcBusy = .next abcBusy.loadBlock :=
  (step_empty abcBusy rfl).trans ((engineStep_load abcBusy rfl).trans (execLoad_next abcBusy (by decide) (by decide)))

theorem witness_StepKeepsInvariants : EngineInv abcBusy ∧ step abcBusy = .next abcBusy.loadBlock :=
  ⟨abcBusy_inv, abcBusy_step⟩

theorem witness_StepKeepsMemoryCanonical :
    abcIdle.msg.wf ∧ step { abcIdle with agenda := [.store 1 0] } = .next (abcIdle.storeByte 1 0) := ⟨by decide, rfl⟩

theorem witness_BusyEngineIsNeverStuck :
    (EngineInv abcBusy ∧ EngineNext abcBusy) ∧ EngineInv abcDone ∧ EngineNext abcDone ∧ abcDone.phase = 0 :=
  ⟨⟨abcBusy_inv, .inl rfl⟩, abcDone_inv, .inl rfl, rfl⟩

theorem witness_EngineStepCountsDown : EngineInv abcBusy ∧ EngineNext abcBusy ∧ abcBusy.phase ≠ 0 :=
  ⟨abcBusy_inv, .inl rfl, by decide⟩

theorem witness_ComputationFollowsFixedSequence : abcIdle.phase = 0 ∧ abcIdle.len.toNat ≤ abcIdle.params.maxLen.val ∧
    abcIdle.agenda = [] ∧ exec (.wrCtrlStart 1) abcIdle = .next abcIdle.acceptStart ∧
    113 < 114 * abcIdle.acceptStart.nblk.toNat :=
  ⟨rfl, by decide, rfl, rfl, by decide⟩

theorem witness_AcceptedStartBeginsComputing : abcIdle.phase = 0 ∧ abcIdle.len.toNat = abc.length ∧
    abc.length ≤ abcIdle.params.maxLen.val ∧ ∀ (i : Nat) (h : i < abc.length), abcIdle.messageByte i = abc[i] := by decide

theorem abcBusy_computing : Computing abc abcBusy where
  short := by decide
  message := ⟨rfl, by decide⟩
  blocks := rfl
  block := by decide
  chained := rfl
  not_done := rfl
  progress := .inl rfl

theorem witness_UndisturbedStepKeepsComputing : Computing abc abcBusy ∧
    (∀ e ∈ abcBusy.agenda.head?, Undisturbed abcBusy.params.msgMap abc.length e) ∧
    step abcBusy = .next abcBusy.loadBlock ∧ Undisturbed abcBusy.params.msgMap abc.length (.store 3 0) :=
  ⟨abcBusy_computing, by simp [abcBusy, abcIdle, State.reset], abcBusy_step,
    show ∀ i < abc.length, MsgMap.location [] i ≠ 3 by decide⟩

/-- Idle, with the digest of "abc" published, as the reference function gives it. -/
def abcPublished : State := { abcIdle with done := true, H := hashAfter abc (blockCount abc.length) }

theorem witness_PublishedDigestStays : Published abc abcPublished ∧ step abcPublished = .next abcPublished :=
  ⟨⟨by decide, rfl, rfl, rfl⟩, (step_empty abcPublished rfl).trans (engineStep_idle abcPublished rfl)⟩

theorem witness_EngineComputesSha256 :
    let s : State := { abcIdle with agenda := [.host 0x4000000001] }
    s.phase = 0 ∧ s.len.toNat = abc.length ∧ abc.length ≤ s.params.maxLen.val ∧
      (∀ (i : Nat) (h : i < abc.length), s.messageByte i = abc[i]) ∧ s.agenda = [.host 0x4000000001] := by decide

theorem witness_EngineInstancesAreIndependent :
    ([abcBusy, abcIdle] : Platform)[0]? = some abcBusy ∧ step abcBusy = .next abcBusy.loadBlock := ⟨rfl, abcBusy_step⟩

theorem witness_ReservedErrorCodeFaults : EngineInv abcBusy ∧ 3 ≤ ({ rejected with errCode := 3 } : State).errCode.toNat :=
  ⟨abcBusy_inv, by decide⟩

/-- Two engines, the second one's registers above the first one's. -/
def twoEngines : Platform := Platform.powerOn ⟨2, by decide⟩ fun k => { Params.default with regBase := 0x100 * k }

theorem twoEngines_params (k : Nat) : ({ Params.default with regBase := 0x100 * k } : Params).Legal :=
  ⟨by show 0x100 * k % 4 = 0; omega, MsgMap.identity_injective _⟩

theorem witness_PlatformStaysLegal : twoEngines.Legal ∧ ∃ p', twoEngines.stepAt 1 = some (.next p') :=
  ⟨⟨by decide, by
      rintro s hs
      obtain ⟨k, -, rfl⟩ := List.mem_map.1 hs
      exact twoEngines_params k, by decide⟩, _, rfl⟩

end Sys2Proof.Tests
end

/-! The ROM holds the root fractions of 10_state.md R18, R19. Two facts of computation carry the statement: the
sieve by trial division below 18 (`filter_prime_range_eq_firstPrimes`) and one comparison of powers for each word
(`K_isScaledRoot`, `IV_isScaledRoot`). -/

namespace Sys2Proof.Machine

/-! ### The first 64 primes -/

/-- Trial division: n is at least 2 and no number below k divides it but 1 and n itself. -/
def passesTrialDivision (k n : Nat) : Bool := decide (2 ≤ n ∧ ∀ d < k, d ∣ n → d = 1 ∨ d = n)

/-- Trial division up to the square root decides primality: a composite n has its least factor at most √n. -/
theorem decide_prime_eq_passesTrialDivision {n k : Nat} (hn : n < k ^ 2) :
    decide n.Prime = passesTrialDivision k n := by
  refine decide_eq_decide.2 ⟨fun hp => ⟨hp.two_le, fun d _ => hp.eq_one_or_self_of_dvd d⟩, fun ⟨hn2, hd⟩ => ?_⟩
  by_contra hp
  have hsq : n.minFac ^ 2 < k ^ 2 := (Nat.minFac_sq_le_self (by omega) hp).trans_lt hn
  have hlt : n.minFac < k := lt_of_pow_lt_pow_left₀ 2 (Nat.zero_le k) hsq
  have hfac : n.minFac.Prime := Nat.minFac_prime (by omega)
  have hself : n.minFac = n := (hd _ hlt n.minFac_dvd).resolve_left hfac.ne_one
  exact hp (hself ▸ hfac)

/-- The primes below 312, in order. -/
def firstPrimes : List Nat :=
  [2, 3, 5, 7, 11, 13, 17, 19, 23, 29, 31, 37, 41, 43, 47, 53,
   59, 61, 67, 71, 73, 79, 83, 89, 97, 101, 103, 107, 109, 113, 127, 131,
   137, 139, 149, 151, 157, 163, 167, 173, 179, 181, 191, 193, 197, 199, 211, 223,
   227, 229, 233, 239, 241, 251, 257, 263, 269, 271, 277, 281, 283, 293, 307, 311]

theorem filter_prime_range_eq_firstPrimes : (List.range 312).filter (Nat.Prime ·) = firstPrimes := by
  have hlt : ∀ n ∈ List.range 312, n < 18 ^ 2 := fun n hn => (List.mem_range.1 hn).trans (by decide)
  rw [List.filter_congr fun n hn => decide_prime_eq_passesTrialDivision (hlt n hn)]
  decide

/-- Of the numbers below n with p, listed in order, exactly t lie below the one at place t. -/
theorem count_getElem_of_filter_range {p : Nat → Prop} [DecidablePred p] {n t : Nat} {l : List Nat}
    (hl : (List.range n).filter (p ·) = l) (h : t < l.length) : Nat.count p l[t] = t := by
  subst hl
  induction n with
  | zero => simp at h
  | succ n ih =>
    by_cases hp : p n
    · have hlen : ((List.range (n + 1)).filter (p ·)).length = ((List.range n).filter (p ·)).length + 1 := by
        simp [List.range_succ, hp]
      obtain ht | rfl := Nat.lt_succ_iff_lt_or_eq.1 (hlen ▸ h)
      · simpa [List.range_succ, hp, List.getElem_append_left, ht] using ih ht
      · simp [List.range_succ, hp, Nat.count, List.countP_eq_length_filter]
    · simp only [List.range_succ, List.filter_append, List.filter_singleton, hp] at h ⊢
      simpa using ih (by simpa using h)

theorem prime_of_mem_firstPrimes {p : Nat} (h : p ∈ firstPrimes) : p.Prime := by
  rw [← filter_prime_range_eq_firstPrimes, List.mem_filter] at h
  exact of_decide_eq_true h.2

theorem count_firstPrimes {t : Nat} (h : t < firstPrimes.length) : Nat.count Nat.Prime firstPrimes[t] = t :=
  count_getElem_of_filter_range filter_prime_range_eq_firstPrimes h

/-! ### The words as fractions of roots -/

/-- r is the n-th root of p times 2^32, rounded down. -/
abbrev IsScaledRoot (n p r : Nat) : Prop := r ^ n ≤ p * 2 ^ (32 * n) ∧ p * 2 ^ (32 * n) < (r + 1) ^ n

/-- R18: the integer part a of the root, at most that of the cube root of 311, K[t] its 32 bits of fraction. -/
theorem K_isScaledRoot : ∀ t : Fin 64, ∃ a < 7, IsScaledRoot 3 firstPrimes[t] (a * 2 ^ 32 + K[t].toNat) := by
  decide

/-- R19: the integer part a of the root, at most that of the square root of 19, IV[i] its 32 bits of fraction. -/
theorem IV_isScaledRoot : ∀ i : Fin 8, ∃ a < 5, IsScaledRoot 2 firstPrimes[i] (a * 2 ^ 32 + IV[i].toNat) := by
  decide

theorem toNat_eq_integerPart_add_mod (a : Nat) (w : Word) : w.toNat = (a * 2 ^ 32 + w.toNat) % 2 ^ 32 := by
  have hw : w.toNat < 2 ^ 32 := w.isLt
  omega

/-- Settles O36: the (t+1)-th prime is the entry t of `firstPrimes`, and the word is the fraction of its scaled root. -/
theorem romHoldsRootFractions : Obligations.RomHoldsRootFractions := by
  unfold Obligations.RomHoldsRootFractions
  constructor
  · intro t ht
    have hlen : t < firstPrimes.length := ht
    obtain ⟨a, -, hle, hlt⟩ := K_isScaledRoot ⟨t, ht⟩
    exact ⟨firstPrimes[t], _, prime_of_mem_firstPrimes (List.getElem_mem hlen), count_firstPrimes hlen,
      hle, hlt, toNat_eq_integerPart_add_mod a K[t]⟩
  · intro i hi
    have hlen : i < firstPrimes.length := hi.trans (by decide)
    obtain ⟨a, -, hle, hlt⟩ := IV_isScaledRoot ⟨i, hi⟩
    exact ⟨firstPrimes[i], _, prime_of_mem_firstPrimes (List.getElem_mem hlen), count_firstPrimes hlen,
      hle, hlt, toNat_eq_integerPart_add_mod a IV[i]⟩

end Sys2Proof.Machine

/-! The word operations of 40_word_ops.md R67 to R80. Sums are read off their values as numbers, the rotations, the
sigma functions, CH and MAJ bit by bit, and the byte converters as base-256 digits (`beNat_map_range_digit`). -/

namespace Sys2Proof.Machine

/-! ### Word sums -/

theorem toNat_sumWords (xs : List Word) : (sumWords xs).toNat = (xs.map fun x => x.toNat).sum % 2 ^ 32 := by
  cases xs with
  | nil => rfl
  | cons x xs => exact foldl_add32_toNat xs x

theorem sumWords_append (xs ys : List Word) : sumWords (xs ++ ys) = add32 (sumWords xs) (sumWords ys) := by
  apply BitVec.eq_of_toNat_eq
  simp only [add32_eq, BitVec.toNat_add, toNat_sumWords, List.map_append, List.sum_append,
    Nat.add_mod_mod, Nat.mod_add_mod]

theorem sumWords_perm {xs ys : List Word} (h : xs.Perm ys) : sumWords xs = sumWords ys := by
  have hsum : (xs.map fun x => x.toNat).sum = (ys.map fun x => x.toNat).sum := (h.map _).sum_eq
  exact BitVec.eq_of_toNat_eq (by rw [toNat_sumWords, toNat_sumWords, hsum])

/-- Settles O31: a sum is known by its value mod 2^32, which neither the cut nor the order changes. -/
theorem wordSumsWrapInAnyOrder : Obligations.WordSumsWrapInAnyOrder := by
  unfold Obligations.WordSumsWrapInAnyOrder
  exact ⟨fun _ _ => BitVec.toNat_ofNat _ _, toNat_sumWords, sumWords_append, fun _ _ => sumWords_perm⟩

/-! ### Bits of rotations, shifts and sigma functions -/

/-- Of the two shifts that ROTR joins, the right one gives the bits that stay below 32, the left one those that wrap. -/
theorem getLsbD_rotr (x : Word) {n j : Nat} (hn : 0 < n) (hn' : n < 32) (hj : j < 32) :
    (rotr x n).getLsbD j = x.getLsbD ((j + n) % 32) := by
  simp only [rotr, BitVec.getLsbD_or, BitVec.getLsbD_ushiftRight, BitVec.getLsbD_shiftLeft]
  by_cases h : j + n < 32
  · have hleft : j < 32 - n := by omega
    simp [Nat.mod_eq_of_lt h, hleft, Nat.add_comm n j]
  · have hleft : ¬ j < 32 - n := by omega
    have hwrap : (j + n) % 32 = j - (32 - n) := by omega
    have hright : x.getLsbD (n + j) = false := BitVec.getLsbD_of_ge x _ (by omega)
    simp [hright, hleft, hwrap, hj]

/-- Settles O32. -/
theorem rotrMovesBits : Obligations.RotrMovesBits := by
  unfold Obligations.RotrMovesBits
  exact fun x _ _ hn hn' hj => getLsbD_rotr x hn hn' hj

/-- Past the top bit a logical right shift fills with 0. -/
theorem getLsbD_shr (x : Word) (n j : Nat) : (shr x n).getLsbD j = (decide (j + n < 32) && x.getLsbD (j + n)) := by
  rw [shr, BitVec.getLsbD_ushiftRight, Nat.add_comm n j]
  by_cases h : j + n < 32
  · simp [h]
  · simp [h, BitVec.getLsbD_of_ge x (j + n) (by omega)]

/-- Settles O33: XOR acts bit by bit on the rotations (`getLsbD_rotr`) and shifts (`getLsbD_shr`). -/
theorem sigmaBitsAreXors : Obligations.SigmaBitsAreXors := by
  unfold Obligations.SigmaBitsAreXors
  intro x j hj
  refine ⟨?_, ?_, ?_, ?_⟩
  · simp only [ssig0, BitVec.getLsbD_xor, getLsbD_rotr, getLsbD_shr, hj, Nat.reduceLT]
  · simp only [ssig1, BitVec.getLsbD_xor, getLsbD_rotr, getLsbD_shr, hj, Nat.reduceLT]
  · simp only [bsig0, BitVec.getLsbD_xor, getLsbD_rotr, hj, Nat.reduceLT]
  · simp only [bsig1, BitVec.getLsbD_xor, getLsbD_rotr, hj, Nat.reduceLT]

/-! ### Bits of CH and MAJ -/

theorem getLsbD_ch (x y z : Word) {j : Nat} (hj : j < 32) :
    (ch x y z).getLsbD j = if x.getLsbD j then y.getLsbD j else z.getLsbD j := by
  simp only [ch, BitVec.getLsbD_xor, BitVec.getLsbD_and, BitVec.getLsbD_not, hj]
  cases x.getLsbD j <;> simp

/-- The XOR of the three pairwise ANDs is the majority of three bits. -/
theorem xor_and_pairs_iff_two_le (a b c : Bool) :
    ((a && b) ^^ (a && c) ^^ (b && c)) = true ↔ 2 ≤ a.toNat + b.toNat + c.toNat := by
  revert a b c; decide

/-- Settles O34: CH by the two values of x's bit, MAJ by the truth table of the majority. -/
theorem chChoosesAndMajVotes : Obligations.ChChoosesAndMajVotes := by
  unfold Obligations.ChChoosesAndMajVotes
  intro x y z j hj
  refine ⟨getLsbD_ch x y z hj, ?_⟩
  simp only [maj, BitVec.getLsbD_xor, BitVec.getLsbD_and]
  exact xor_and_pairs_iff_two_le _ _ _

/-! ### Byte converters -/

theorem beNat_append_singleton (bs : List Byte) (b : Byte) : beNat (bs ++ [b]) = 256 * beNat bs + b.toNat := by
  simp [beNat]

/-- Digit i, counted from the most significant, of the n base-256 digits of v. -/
def beDigit (n v i : Nat) : Byte := BitVec.ofNat 8 (v / 256 ^ (n - 1 - i))

theorem beDigit_last (n v : Nat) : (beDigit (n + 1) v n).toNat = v % 256 := by simp [beDigit]

theorem beDigit_succ (n v : Nat) {i : Nat} (h : i < n) : beDigit (n + 1) v i = beDigit n (v / 256) i := by
  have hexp : n + 1 - 1 - i = (n - 1 - i) + 1 := by omega
  rw [beDigit, beDigit, hexp, pow_succ', Nat.div_div_eq_div_mul]

theorem beNat_map_range_digit (n v : Nat) : beNat ((List.range n).map (beDigit n v)) = v % 256 ^ n := by
  induction n generalizing v with
  | zero => simp [beNat, Nat.mod_one]
  | succ n ih =>
    have hinit : (List.range n).map (beDigit (n + 1) v) = (List.range n).map (beDigit n (v / 256)) :=
      List.map_congr_left fun _ hi => beDigit_succ n v (List.mem_range.1 hi)
    rw [List.range_succ, List.map_append, List.map_singleton, beNat_append_singleton, hinit, ih, beDigit_last,
      pow_succ', Nat.mod_mul, Nat.add_comm]

theorem bytes32_eq_beDigit (w : Word) : bytes32 w = beDigit 4 w.toNat := by
  funext j
  apply BitVec.eq_of_toNat_eq
  simp [bytes32, beDigit, Nat.shiftRight_eq_div_pow, pow_mul]

theorem bytes64_eq_beDigit (v : Len64) : bytes64 v = beDigit 8 v.toNat := by
  funext i
  apply BitVec.eq_of_toNat_eq
  simp [bytes64, beDigit, Nat.shiftRight_eq_div_pow, pow_mul]

theorem beNat_bytes32 (w : Word) : beNat ((List.range 4).map (bytes32 w)) = w.toNat := by
  rw [bytes32_eq_beDigit, beNat_map_range_digit]
  exact Nat.mod_eq_of_lt w.isLt

theorem beNat_bytes64 (v : Len64) : beNat ((List.range 8).map (bytes64 v)) = v.toNat := by
  rw [bytes64_eq_beDigit, beNat_map_range_digit]
  exact Nat.mod_eq_of_lt v.isLt

/-- The joined bytes are a sum (`be32_eq_add`), which four bytes keep below 2^32. -/
theorem toNat_be32 (b0 b1 b2 b3 : Byte) : (be32 b0 b1 b2 b3).toNat = beNat [b0, b1, b2, b3] := by
  have h0 := b0.isLt
  have h1 := b1.isLt
  have h2 := b2.isLt
  have h3 := b3.isLt
  simp only [be32_eq_add, beNat, List.foldl_cons, List.foldl_nil, BitVec.toNat_add, BitVec.toNat_shiftLeft,
    BitVec.toNat_setWidth, Nat.shiftLeft_eq]
  omega

theorem be32_bytes32 (w : Word) : be32 (bytes32 w 0) (bytes32 w 1) (bytes32 w 2) (bytes32 w 3) = w :=
  BitVec.eq_of_toNat_eq ((toNat_be32 _ _ _ _).trans (beNat_bytes32 w))

theorem bytes32_eq_extractLsb' (w : Word) (j : Nat) : bytes32 w j = w.extractLsb' (24 - 8 * j) 8 := by
  rw [bytes32, BitVec.setWidth_ushiftRight_eq_extractLsb, Nat.mul_sub]

theorem bytes64_eq_extractLsb' (v : Len64) (i : Nat) : bytes64 v i = v.extractLsb' (56 - 8 * i) 8 := by
  rw [bytes64, BitVec.setWidth_ushiftRight_eq_extractLsb, Nat.mul_sub]

/-- Settles O35. -/
theorem byteConvertersAreBigEndian : Obligations.ByteConvertersAreBigEndian := by
  unfold Obligations.ByteConvertersAreBigEndian
  exact ⟨toNat_be32, be32_bytes32, fun w j _ => bytes32_eq_extractLsb' w j, fun v i _ => bytes64_eq_extractLsb' v i,
    beNat_bytes64⟩

end Sys2Proof.Machine

/-! The padder and the block segmenter of 41_padding.md R84 to R94. The padded message is read as its four parts: the
message, the 0x80 byte, the zero bytes and the length field, with one reading rule for each; PadByte, the bit length and
the contents of the blocks follow from these rules. -/

namespace Sys2Proof.Machine

/-! ### Padding arithmetic -/

theorem padRemainder_lt (L : Nat) : padRemainder L < 512 := Nat.mod_lt _ (by decide)

theorem padRemainder_mod_eight {L : Nat} (h : L % 8 = 0) : padRemainder L % 8 = 1 := by
  unfold padRemainder; omega

theorem padZeroBits_of_le {L : Nat} (h : padRemainder L ≤ 448) : padZeroBits L = 448 - padRemainder L := if_pos h

theorem padZeroBits_of_gt {L : Nat} (h : 448 < padRemainder L) : padZeroBits L = 960 - padRemainder L := by
  have hlt : padRemainder L < 512 := padRemainder_lt L
  rw [padZeroBits, if_neg (by omega)]; omega

theorem add_padZeroBits_mod (L : Nat) : (L + 1 + padZeroBits L) % 512 = 448 := by
  have hr : padRemainder L = (L + 1) % 512 := rfl
  rcases le_or_gt (padRemainder L) 448 with h | h
  · rw [padZeroBits_of_le h]; omega
  · rw [padZeroBits_of_gt h]; omega

/-- Settles O37: a byte-aligned L has r mod 8 = 1, which with r below 512 gives every bound in the two cases of k. -/
theorem paddingArithmeticHolds : Obligations.PaddingArithmeticHolds := by
  unfold Obligations.PaddingArithmeticHolds
  refine ⟨add_padZeroBits_mod, fun L hL => ?_⟩
  have hlt : padRemainder L < 512 := padRemainder_lt L
  have hmod : padRemainder L % 8 = 1 := padRemainder_mod_eight hL
  rcases le_or_gt (padRemainder L) 448 with h | h
  · rw [padZeroBits_of_le h]; omega
  · rw [padZeroBits_of_gt h]; omega

/-! ### The padded length -/

theorem length_paddedMessage_eq_blocks (M : List Byte) : (paddedMessage M).length = 64 * blockCount M.length := by
  rw [length_paddedMessage, padZeroBytes_eq, blockCount]

theorem add_nine_le_blocks (n : Nat) : n + 9 ≤ 64 * blockCount n := by
  unfold blockCount; omega

theorem blocks_le_of_add_nine_le {n m : Nat} (h : n + 9 ≤ 64 * m) : 64 * blockCount n ≤ 64 * m := by
  unfold blockCount; omega

/-- Settles O38: the length is 64 times the block count, and the block count is the least with room for mlen + 9. -/
theorem paddedLengthIsLeastMultiple : Obligations.PaddedLengthIsLeastMultiple := by
  unfold Obligations.PaddedLengthIsLeastMultiple
  intro M
  have hlen := length_paddedMessage_eq_blocks M
  exact ⟨length_paddedMessage M, hlen, hlen, hlen ▸ add_nine_le_blocks _, fun _ h => hlen ▸ blocks_le_of_add_nine_le h⟩

/-! ### The four parts of the padded message -/

theorem getElem?_paddedMessage_of_lt {M : List Byte} {i : Nat} (h : i < M.length) : (paddedMessage M)[i]? = M[i]? := by
  simp [paddedMessage, List.getElem?_append_left h]

theorem getElem?_paddedMessage_mark (M : List Byte) : (paddedMessage M)[M.length]? = some 0x80 := by
  simp [paddedMessage]

/-- The length field begins 8 bytes before the end of the last block. -/
theorem length_before_lengthField (M : List Byte) :
    (M ++ [0x80#8] ++ List.replicate (padZeroBytes M.length) 0x00#8).length = 64 * blockCount M.length - 8 := by
  have hblocks := padZeroBytes_eq M.length
  simp only [List.length_append, List.length_singleton, List.length_replicate, blockCount]
  omega

theorem getElem?_paddedMessage_zero {M : List Byte} {i : Nat} (h : M.length < i) (h' : i < 64 * blockCount M.length - 8) :
    (paddedMessage M)[i]? = some 0 := by
  have hbefore := length_before_lengthField M
  rw [paddedMessage, List.getElem?_append_left (hbefore ▸ h'), List.getElem?_append_right (by simpa using h)]
  simp only [List.length_append, List.length_singleton, List.length_replicate] at hbefore ⊢
  rw [List.getElem?_replicate, if_pos (by omega)]; rfl

theorem drop_paddedMessage_lengthField (M : List Byte) :
    (paddedMessage M).drop (64 * blockCount M.length - 8) = lengthField (8 * M.length) :=
  List.drop_left' (length_before_lengthField M)

/-! ### PadByte and the bit length -/

/-- Settles O39: each case of PadByte is the reading rule of one part of the padded message. -/
theorem padByteIsPaddedMessage : Obligations.PadByteIsPaddedMessage := by
  unfold Obligations.PadByteIsPaddedMessage
  intro M i hi
  unfold padByte
  split_ifs with hmsg hmark hzero
  · rw [getElem?_paddedMessage_of_lt hmsg, List.getElem?_eq_getElem hmsg]
  · rw [hmark, getElem?_paddedMessage_mark]
  · exact getElem?_paddedMessage_zero (by omega) hzero
  · obtain ⟨k, rfl⟩ := Nat.exists_eq_add_of_le (not_lt.1 hzero)
    rw [← List.getElem?_drop, drop_paddedMessage_lengthField, Nat.add_sub_cancel_left,
      getElem?_lengthField _ _ (by omega)]

theorem beNat_lengthField {L : Nat} (h : L < 2 ^ 64) : beNat (lengthField L) = L := by
  rw [lengthField, beNat_bytes64, BitVec.toNat_ofNat, Nat.mod_eq_of_lt h]

/-- Settles O40: the last 8 bytes are the length field, and the bit length of fewer than 2^61 bytes fits in it. -/
theorem lengthRoundTrip : Obligations.LengthRoundTrip := by
  unfold Obligations.LengthRoundTrip
  intro M hM
  rw [length_paddedMessage_eq_blocks, drop_paddedMessage_lengthField]
  exact ⟨Nat.mul_mod_right 64 _, beNat_lengthField (by omega)⟩

/-! ### Block contents -/

theorem getElem_messageBlock_of_lt {M : List Byte} {j n : Nat} (h : n < 64) (hlt : 64 * j + n < M.length) :
    some (messageBlock M j)[n] = M[64 * j + n]? := by
  rw [getElem_messageBlock, getElem?_paddedMessage_of_lt hlt, List.getElem?_eq_getElem hlt, Option.getD_some]

theorem getElem_messageBlock_mark {M : List Byte} {j n : Nat} (h : n < 64) (heq : M.length = 64 * j + n) :
    (messageBlock M j)[n] = 0x80 := by
  rw [getElem_messageBlock, ← heq, getElem?_paddedMessage_mark, Option.getD_some]

theorem getElem_messageBlock_zero {M : List Byte} {j n : Nat} (h : n < 64) (hgt : M.length < 64 * j + n)
    (hlt : 64 * j + n < 64 * blockCount M.length - 8) : (messageBlock M j)[n] = 0 := by
  rw [getElem_messageBlock, getElem?_paddedMessage_zero hgt hlt, Option.getD_some]

theorem toList_messageBlock_last {M : List Byte} {j : Nat} (hj : blockCount M.length = j + 1) :
    (messageBlock M j).toList = (paddedMessage M).drop (64 * j) := by
  have hlen := length_paddedMessage_eq_blocks M
  refine List.ext_getElem (by simp; omega) fun n hn hn' => ?_
  have hlt : 64 * j + n < (paddedMessage M).length := by simpa [Nat.lt_sub_iff_add_lt'] using hn'
  rw [Vector.getElem_toList, getElem_messageBlock, List.getElem_drop, List.getElem?_eq_getElem hlt, Option.getD_some]

theorem drop_messageBlock_last {M : List Byte} {j : Nat} (hj : blockCount M.length = j + 1) :
    (messageBlock M j).toList.drop 56 = lengthField (8 * M.length) := by
  rw [toList_messageBlock_last hj, List.drop_drop, ← drop_paddedMessage_lengthField, hj,
    show 64 * (j + 1) - 8 = 64 * j + 56 by omega]

theorem blockCount_of_le {n q r : Nat} (hn : n = 64 * q + r) (h : r ≤ 55) : blockCount n = q + 1 := by
  unfold blockCount; omega

theorem blockCount_of_ge {n q r : Nat} (hn : n = 64 * q + r) (hr : r < 64) (h : 56 ≤ r) : blockCount n = q + 2 := by
  unfold blockCount; omega

/-- Settles O41: r decides the block count; each byte of a block is then in one part of the padded message. -/
theorem blockContents : Obligations.BlockContents := by
  unfold Obligations.BlockContents
  intro M q r hM hr
  refine ⟨fun j n h hj => getElem_messageBlock_of_lt h (by omega), fun n h hn => getElem_messageBlock_of_lt h (by omega),
    ?_, fun hfit => ?_, fun hspill => ?_⟩
  · rw [Vector.getElem?_eq_getElem hr, getElem_messageBlock_mark hr hM]
  · have hcount : blockCount M.length = q + 1 := blockCount_of_le hM hfit
    exact ⟨hcount, fun n h hgt hlt => getElem_messageBlock_zero h (by omega) (by omega), drop_messageBlock_last hcount⟩
  · have hcount : blockCount M.length = q + 2 := blockCount_of_ge hM hr hspill
    exact ⟨hcount, fun n h hgt => getElem_messageBlock_zero h (by omega) (by omega),
      fun n h hlt => getElem_messageBlock_zero h (by omega) (by omega), drop_messageBlock_last hcount⟩

end Sys2Proof.Machine

/-! The message scheduler of 42_schedule.md R95 and R96. The recurrence reads only earlier words (`scheduleWord_congr`),
so the first 16 words determine a sequence that obeys it. -/

namespace Sys2Proof.Machine

theorem toNat_blockWord (B : Vector Byte 64) (i : Nat) (h : i < 16) :
    (blockWord B i h).toNat = beNat [B[4 * i], B[4 * i + 1], B[4 * i + 2], B[4 * i + 3]] :=
  toNat_be32 _ _ _ _

theorem scheduleWord_eq_add (W : Vector Word 64) (t : Nat) (lo : 16 ≤ t) (hi : t < 64) :
    scheduleWord W t lo hi = ssig1 W[t - 2] + W[t - 7] + ssig0 W[t - 15] + W[t - 16] :=
  sumWords_four _ _ _ _

/-- Two sequences that obey the recurrence and begin with the same 16 words are the same. -/
theorem eq_of_scheduleWord {W V : Vector Word 64} (low : ∀ (i : Nat) (_ : i < 16), W[i] = V[i])
    (hW : ∀ (t : Nat) (lo : 16 ≤ t) (hi : t < 64), W[t] = scheduleWord W t lo hi)
    (hV : ∀ (t : Nat) (lo : 16 ≤ t) (hi : t < 64), V[t] = scheduleWord V t lo hi) : W = V := by
  refine Vector.ext fun t hi => ?_
  induction t using Nat.strongRecOn with
  | ind t ih =>
    rcases lt_or_ge t 16 with hlow | lo
    · exact low t hlow
    · calc W[t] = scheduleWord W t lo hi := hW t lo hi
        _ = scheduleWord V t lo hi := scheduleWord_congr W V t lo hi fun i h hlt => ih i hlt h
        _ = V[t] := (hV t lo hi).symm

/-- Settles O45: the schedule obeys both conditions, and they leave only one sequence (`eq_of_scheduleWord`). -/
theorem scheduleSatisfiesRecurrence : Obligations.ScheduleSatisfiesRecurrence := by
  unfold Obligations.ScheduleSatisfiesRecurrence
  intro B W
  constructor
  · rintro rfl
    constructor
    · intro i h
      rw [schedule_low B i h, toNat_blockWord]
    · intro t lo hi
      rw [schedule_high B t lo hi, scheduleWord_eq_add]
  · rintro ⟨hwords, hrec⟩
    refine eq_of_scheduleWord (fun i h => ?_) (fun t lo hi => ?_) (schedule_high B)
    · rw [schedule_low B i h]
      exact BitVec.eq_of_toNat_eq ((hwords i h).trans (toNat_blockWord B i h).symm)
    · rw [scheduleWord_eq_add, hrec t lo hi]

end Sys2Proof.Machine

/-! The output encoder of 44_output.md R109. -/

namespace Sys2Proof.Machine

theorem getElem_encodeDigest (H : Vector Word 8) (i j : Nat) (hi : i < 8) (hj : j < 4) :
    (encodeDigest H)[4 * i + j] = bytes32 H[i] j := by
  have hword : (4 * i + j) / 4 = i := by omega
  have hbyte : (4 * i + j) % 4 = j := by omega
  simp only [encodeDigest, Vector.getElem_ofFn, hword, hbyte]

/-- Settles O46: the digest's bytes are those of its words, and `bytes32` is big-endian. -/
theorem digestBytesAreBigEndian : Obligations.DigestBytesAreBigEndian := by
  unfold Obligations.DigestBytesAreBigEndian
  intro H i j hi hj
  rw [getElem_encodeDigest H i j hi hj, bytes32_eq_extractLsb']

end Sys2Proof.Machine

/-! The host interface of 45_host_interface.md: the decoder's row from KEY, what each read yields, and what each write
does. START's four answers are said once, for `exec`, and are used wherever a START is taken. -/

namespace Sys2Proof.Machine

section
variable {s : State}

/-! ### STATUS -/

theorem EngineInv.errCode_le_two (h : EngineInv s) : s.errCode.toNat ≤ 2 := by
  cases he : s.err
  · simp [h.no_error he]
  · obtain hc | hc := h.error_code he <;> simp [hc]

/-- The Words STATUS can hold (R116): one while BUSY = 1, and in IDLE one for each of nothing yet, a digest, and the two
errors. -/
theorem EngineInv.statusWord_cases (h : EngineInv s) :
    (s.phase ≠ 0 ∧ s.statusWord = 0x00000001) ∨
    (s.phase = 0 ∧ (s.statusWord = 0x00000000 ∨ s.statusWord = 0x00000002 ∨ s.statusWord = 0x00000014 ∨
      s.statusWord = 0x00000024)) := by
  unfold State.statusWord
  cases hb : s.busy
  · refine .inr ⟨(not_busy_iff s).1 hb, ?_⟩
    cases he : s.err
    · rw [h.no_error he]
      cases s.done <;> decide
    · have hd : s.done = false := by simpa [he] using h.not_both
      rw [hd]
      obtain hc | hc := h.error_code he <;> rw [hc] <;> decide
  · obtain ⟨hd, he⟩ := h.busy_flags hb
    rw [hd, he, h.no_error he]
    exact .inl ⟨(busy_iff s).1 hb, by decide⟩

/-- LEN_OVERFLOW as the host sees it (R138). -/
theorem statusWord_raiseError_lenOverflow (h : s.phase = 0) : (s.raiseError errLenOverflow).statusWord = 0x00000014 := by
  have hb : (s.raiseError errLenOverflow).busy = false := (not_busy_iff _).2 h
  simp only [State.statusWord, hb, State.raiseError_errCode, State.raiseError_err, State.raiseError_done]
  decide

/-! ### The halves of LEN -/

theorem toNat_lenLo (s : State) : s.lenLo.toNat = s.len.toNat % 2 ^ 32 := by
  simp [State.lenLo]

theorem toNat_lenHi (s : State) : s.lenHi.toNat = s.len.toNat / 2 ^ 32 := by
  have hlen : s.len.toNat < 2 ^ 64 := s.len.isLt
  rw [State.lenHi, BitVec.extractLsb'_toNat, Nat.shiftRight_eq_div_pow]
  omega

@[simp] theorem lenLo_setLenLo (s : State) (data : Word) : (s.setLenLo data).lenLo = data := by
  ext i hi
  simp [State.lenLo, hi, show i < 64 by omega]

@[simp] theorem lenHi_setLenLo (s : State) (data : Word) : (s.setLenLo data).lenHi = s.lenHi := by
  ext i hi
  simp [State.lenHi, hi, show 32 + i < 64 by omega]

@[simp] theorem lenLo_setLenHi (s : State) (data : Word) : (s.setLenHi data).lenLo = s.lenLo := by
  ext i hi
  simp [State.lenLo, hi, show i < 64 by omega]

@[simp] theorem lenHi_setLenHi (s : State) (data : Word) : (s.setLenHi data).lenHi = data := by
  ext i hi
  simp [State.lenHi, hi, show 32 + i < 64 by omega]

/-- R138: the upper half alone can make LEN too long. -/
theorem len_overflows_of_lenHi (h : 0x20000000 ≤ s.lenHi.toNat) : 2 ^ 61 ≤ s.len.toNat := by
  rw [toNat_lenHi] at h
  omega

/-! ### START -/

theorem exec_wrCtrlStart_of_busy (data : Word) (hp : s.phase ≠ 0) : exec (.wrCtrlStart data) s = .next s := by
  obtain ⟨-, h⟩ | ⟨hp', -⟩ | ⟨hp', -⟩ | ⟨hp', -⟩ := execWrCtrlStart_cases s data
  · exact h
  all_goals contradiction

theorem exec_wrCtrlStart_of_overflow (data : Word) (hp : s.phase = 0) (hlen : 2 ^ 61 ≤ s.len.toNat) :
    exec (.wrCtrlStart data) s = .next (s.raiseError errLenOverflow) := by
  obtain ⟨hp', -⟩ | ⟨-, -, h⟩ | ⟨-, hlt, -⟩ | ⟨-, hlt, -⟩ := execWrCtrlStart_cases s data
  · contradiction
  · exact h
  all_goals omega

theorem exec_wrCtrlStart_of_unsupported (data : Word) (hp : s.phase = 0) (hlen : s.len.toNat < 2 ^ 61)
    (hmax : s.params.maxLen.val < s.len.toNat) :
    exec (.wrCtrlStart data) s = .next (s.raiseError errLenUnsupported) := by
  obtain ⟨hp', -⟩ | ⟨-, hge, -⟩ | ⟨-, -, -, h⟩ | ⟨-, -, hle, -⟩ := execWrCtrlStart_cases s data
  · contradiction
  · omega
  · exact h
  · omega

theorem exec_wrCtrlStart_of_legal (data : Word) (hp : s.phase = 0) (hmax : s.len.toNat ≤ s.params.maxLen.val) :
    exec (.wrCtrlStart data) s = .next s.acceptStart := by
  have hlt : s.params.maxLen.val < 2 ^ 61 := s.params.maxLen.isLt
  obtain ⟨hp', -⟩ | ⟨-, hge, -⟩ | ⟨-, -, hgt, -⟩ | ⟨-, -, -, h⟩ := execWrCtrlStart_cases s data
  · contradiction
  · omega
  · omega
  · exact h

end

/-! ### Rows of several indices -/

theorem hostStep_of_read {w : BitVec 39} (h : w.getLsbD 38 = false) (s : State) :
    hostStep w s = exec (decodeRead (hostIdx w)) s := by
  rw [hostStep_eq, decodeHost, hostRw, h, if_neg Bool.false_ne_true]

theorem hostStep_of_write {w : BitVec 39} (h : w.getLsbD 38 = true) (s : State) :
    hostStep w s = exec (decodeWrite (hostIdx w) (hostData w)) s := by
  rw [hostStep_eq, decodeHost, hostRw, h, if_pos rfl]

/-- The rows of R120. -/
def reservedReads (n : BitVec 6) : List Instr := [.rdRsvdA n, .rdRsvdB n, .rdRsvdC n]

theorem decodeRead_mem_reservedReads {n : BitVec 6} (h : (4 ≤ n.toNat ∧ n.toNat ≤ 7) ∨ 16 ≤ n.toNat) :
    decodeRead n ∈ reservedReads n := by
  obtain hA | hB | hC : (4 ≤ n.toNat ∧ n.toNat ≤ 7) ∨ (16 ≤ n.toNat ∧ n.toNat ≤ 31) ∨ 32 ≤ n.toNat := by omega
  · simp [reservedReads, decodeRead_rsvdA n (by simpa [rsvdA] using hA)]
  · simp [reservedReads, decodeRead_rsvdB n (by simpa [rsvdB] using hB)]
  · simp [reservedReads, decodeRead_rsvdC n (by simpa [rsvdC] using hC)]

theorem exec_of_mem_reservedReads {n : BitVec 6} {i : Instr} (h : i ∈ reservedReads n) (s : State) :
    exec i s = .next (s.observe 0) := by
  simp only [reservedReads, List.mem_cons, List.not_mem_nil, or_false] at h
  obtain rfl | rfl | rfl := h <;> rfl

/-- The rows of R122, R123, R126 and R127. -/
def ignoredWrites (n : BitVec 6) (k : BitVec 3) (data : Word) : List Instr :=
  [.wrCtrlNop data, .wrStatus data, .wrDigest k data, .wrRsvdA n data, .wrRsvdB n data, .wrRsvdC n data]

theorem decodeWrite_mem_ignoredWrites {n : BitVec 6} {data : Word}
    (h : (n = 0 ∧ data.getLsbD 0 = false) ∨ n = 1 ∨ 4 ≤ n.toNat) :
    decodeWrite n data ∈ ignoredWrites n (digestIndex n) data := by
  obtain ⟨rfl, hd⟩ | rfl | hn := h
  · have hrow : decodeWrite 0 data = .wrCtrlNop data := by rw [decodeWrite, if_pos rfl, hd, if_neg Bool.false_ne_true]
    rw [hrow]
    exact List.mem_cons_self
  · simp [ignoredWrites, decodeWrite]
  · obtain hA | ⟨lo, hi⟩ | hB | hC : (4 ≤ n.toNat ∧ n.toNat ≤ 7) ∨ (8 ≤ n.toNat ∧ n.toNat < 16) ∨
        (16 ≤ n.toNat ∧ n.toNat ≤ 31) ∨ 32 ≤ n.toNat := by omega
    · simp [ignoredWrites, decodeWrite_rsvdA n data (by simpa [rsvdA] using hA)]
    · have hrow : decodeWrite n data = .wrDigest (digestIndex n) data := by
        simpa only [digestIdx_digestIndex n lo hi] using decodeWrite_digest (digestIndex n) data
      simp [ignoredWrites, hrow]
    · simp [ignoredWrites, decodeWrite_rsvdB n data (by simpa [rsvdB] using hB)]
    · simp [ignoredWrites, decodeWrite_rsvdC n data (by simpa [rsvdC] using hC)]

theorem exec_of_mem_ignoredWrites {n : BitVec 6} {k : BitVec 3} {data : Word} {i : Instr}
    (h : i ∈ ignoredWrites n k data) (s : State) : exec i s = .next s := by
  simp only [ignoredWrites, List.mem_cons, List.not_mem_nil, or_false] at h
  obtain rfl | rfl | rfl | rfl | rfl | rfl := h <;> rfl

/-! ### The statements -/

/-- Settles O17: the four answers of START, and the block count of an accepted LEN fits nblk. -/
theorem startIsIgnoredRejectedOrAccepted : Obligations.StartIsIgnoredRejectedOrAccepted := by
  unfold Obligations.StartIsIgnoredRejectedOrAccepted
  refine ⟨fun w hkey hbit => ?_, fun s data => ⟨exec_wrCtrlStart_of_busy data, exec_wrCtrlStart_of_overflow data,
    exec_wrCtrlStart_of_unsupported data, fun hp hlen hmax => ?_⟩⟩
  · have hd : (hostData w).getLsbD 0 = true := by rw [hostData_bit w 0 (by decide), hbit]
    rw [decode_of_hostKey w 0x40 hkey]
    simp [decodeWrite, hd]
  · exact ⟨s.acceptStart, exec_wrCtrlStart_of_legal data hp hmax, blockCount_toNat _ hlen, rfl⟩

/-- Settles O12: row 0 of the read map, and CTRL reads as 0. -/
theorem rdCtrlYieldsZero : Obligations.RdCtrlYieldsZero := by
  unfold Obligations.RdCtrlYieldsZero
  exact ⟨fun w hkey => decode_of_hostKey w 0x00 hkey, fun _ => rfl⟩

/-- Settles O13: the bits are those of `statusBits`, the five Words those the invariants leave. -/
theorem rdStatusYieldsStatusWord : Obligations.RdStatusYieldsStatusWord := by
  unfold Obligations.RdStatusYieldsStatusWord
  refine ⟨fun w hkey => decode_of_hostKey w 0x01 hkey, fun s hcode => ?_, fun s hinv => ?_⟩
  · obtain ⟨hbusy, hdone, herr, hzero, herrCode, hhigh, -⟩ := statusBits s.errCode s.err s.done s.busy
    exact ⟨s.statusWord, execRdStatus_next s hcode, hbusy, hdone, herr, hzero, herrCode, hhigh⟩
  · refine ⟨s.statusWord, execRdStatus_next s hinv.errCode_le_two, ?_⟩
    obtain ⟨-, hv⟩ | ⟨hp, hv⟩ := hinv.statusWord_cases
    · exact ⟨.inr (.inl hv), fun _ => hv⟩
    · exact ⟨hv.imp_right .inr, fun hbusy => absurd hp hbusy⟩

/-- Settles O14: the Words are `lenLo` and `lenHi`. -/
theorem rdLenYieldsHalves : Obligations.RdLenYieldsHalves := by
  unfold Obligations.RdLenYieldsHalves
  exact ⟨fun w hkey => decode_of_hostKey w 0x02 hkey, fun w hkey => decode_of_hostKey w 0x03 hkey, fun s =>
    ⟨⟨s.lenLo, rfl, toNat_lenLo s⟩, ⟨s.lenHi, rfl, toNat_lenHi s⟩⟩⟩

/-- Settles O16: such an index decodes to a reserved row, and each of those reads as 0. -/
theorem rdReservedYieldsZero : Obligations.RdReservedYieldsZero := by
  unfold Obligations.RdReservedYieldsZero
  refine ⟨fun w hread hidx s => ?_, fun n s i hi => exec_of_mem_reservedReads hi s⟩
  rw [hostStep_of_read hread]
  exact exec_of_mem_reservedReads (decodeRead_mem_reservedReads hidx) s

/-- Settles O19: such a write decodes to an ignored row, and each of those leaves the state as it is. -/
theorem ignoredWritesChangeNothing : Obligations.IgnoredWritesChangeNothing := by
  unfold Obligations.IgnoredWritesChangeNothing
  refine ⟨fun w hwrite hidx s => ?_, fun n k data s i hi => exec_of_mem_ignoredWrites hi s⟩
  rw [← hostData_bit w 0 (by decide)] at hidx
  rw [hostStep_of_write hwrite]
  exact exec_of_mem_ignoredWrites (decodeWrite_mem_ignoredWrites hidx) s

/-- Settles O20: each half reads back what was stored in it, and an upper half of 0x20000000 or more is an overflow,
with which START answers. -/
theorem wrLenStoresHalves : Obligations.WrLenStoresHalves := by
  unfold Obligations.WrLenStoresHalves
  refine ⟨fun w hkey => decode_of_hostKey w 0x42 hkey, fun w hkey => decode_of_hostKey w 0x43 hkey, fun s data =>
    ⟨⟨s.setLenLo data, rfl, lenLo_setLenLo s data, lenHi_setLenLo s data, rfl⟩,
     ⟨s.setLenHi data, rfl, lenHi_setLenHi s data, lenLo_setLenHi s data, rfl, fun hdata => ?_⟩⟩⟩
  have hlen : 2 ^ 61 ≤ (s.setLenHi data).len.toNat := len_overflows_of_lenHi (by rwa [lenHi_setLenHi])
  exact ⟨hlen, fun d _ hp =>
    ⟨_, exec_wrCtrlStart_of_overflow d hp hlen, statusWord_raiseError_lenOverflow hp⟩⟩

end Sys2Proof.Machine

/-! The sequencer's micro-steps of 46_sequencer.md R130 to R133. For each step: what the datapath computes in it, which
state follows it, and then its statement. -/

namespace Sys2Proof.Machine

/-! ### LOAD -/

/-- Word i of the current block in terms of PadByte (R95, R130). -/
theorem toNat_blockWord_currentBlock (s : State) (i : Nat) (h : i < 16) :
    (blockWord s.currentBlock i h).toNat = beNat ((List.range 4).map fun j =>
      padByte s.mlen.toNat s.nblk.toNat s.memRead (64 * s.blk.toNat + (4 * i + j))) := by
  rw [toNat_blockWord]
  simp only [State.currentBlock, Vector.getElem_ofFn]
  rfl

/-- Settles O25: in range LOAD's answer is `loadBlock`, whose first 16 words are those of the current block. -/
theorem loadDecodesTheBlock : Obligations.LoadDecodesTheBlock := by
  unfold Obligations.LoadDecodesTheBlock
  intro s hmlen hblk
  refine ⟨s.loadBlock, execLoad_next s hmlen hblk, fun i h => ?_, fun i h hi => ?_, rfl, rfl⟩
  · simp only [State.loadBlock_W, decodeBlock_low _ _ i h, toNat_blockWord_currentBlock s i h]
  · simp only [State.loadBlock_W, decodeBlock_high _ _ i h hi]

/-! ### EXPAND -/

theorem expandStep_last {s : State} (lo : 16 ≤ s.t.toNat) (h : s.t.toNat = 63) :
    (s.expandStep lo).t = 0 ∧ (s.expandStep lo).phase = phaseRound := by
  have ht : s.t = 63 := (t_eq_63_iff s).2 h
  exact ⟨if_pos ht, if_pos ht⟩

theorem expandStep_continues {s : State} (lo : 16 ≤ s.t.toNat) (h : s.t.toNat < 63) :
    (s.expandStep lo).t.toNat = s.t.toNat + 1 ∧ (s.expandStep lo).phase = s.phase := by
  have ht : s.t ≠ 63 := mt (t_eq_63_iff s).1 h.ne
  have hnext : (s.expandStep lo).t = s.t + 1 := if_neg ht
  exact ⟨hnext ▸ t_add_one s h, if_neg ht⟩

/-- Settles O27: the word written is the recurrence's, and the others stay. -/
theorem expandComputesOneWord : Obligations.ExpandComputesOneWord := by
  unfold Obligations.ExpandComputesOneWord
  intro s lo
  refine ⟨s.expandStep lo, execExpand_next s lo, ?_, fun i h hne => ?_, expandStep_last lo, expandStep_continues lo, rfl⟩
  · simp only [State.expandStep_W, expandWord_same, scheduleWord_eq_add]
  · simp only [State.expandStep_W, expandWord_other _ _ _ _ i h hne]

/-! ### ROUND -/

/-- One round with its sums written out (R102). -/
theorem roundWorking_eq (v : WorkingState) (k w : Word) :
    roundWorking v k w =
      ⟨v.h + bsig1 v.e + ch v.e v.f v.g + k + w + (bsig0 v.a + maj v.a v.b v.c), v.a, v.b, v.c,
        v.d + (v.h + bsig1 v.e + ch v.e v.f v.g + k + w), v.e, v.f, v.g⟩ := by
  rw [roundWorking, add32_eq, add32_eq, roundT1_eq, roundT2_eq]

theorem roundStep_last {s : State} (h : s.t.toNat = 63) : s.roundStep.t = s.t ∧ s.roundStep.phase = phaseAccum := by
  have ht : s.t = 63 := (t_eq_63_iff s).2 h
  exact ⟨if_pos ht, if_pos ht⟩

theorem roundStep_continues {s : State} (h : s.t.toNat < 63) :
    s.roundStep.t.toNat = s.t.toNat + 1 ∧ s.roundStep.phase = s.phase := by
  have ht : s.t ≠ 63 := mt (t_eq_63_iff s).1 h.ne
  have hnext : s.roundStep.t = s.t + 1 := if_neg ht
  exact ⟨hnext ▸ t_add_one s h, if_neg ht⟩

/-- Settles O29: ROUND's only answer is `roundStep`, one round with K[t] and W[t]. -/
theorem roundRewritesWorkingState : Obligations.RoundRewritesWorkingState := by
  unfold Obligations.RoundRewritesWorkingState
  intro s T1 T2
  exact ⟨s.roundStep, rfl, roundWorking_eq _ _ _, roundStep_last, roundStep_continues, rfl⟩

/-! ### ACCUM -/

/-- The accumulated hash with its eight sums written out (R105). -/
theorem accumulate_eq (H : Vector Word 8) (v : WorkingState) :
    accumulate H v = #v[H[0] + v.a, H[1] + v.b, H[2] + v.c, H[3] + v.d,
                        H[4] + v.e, H[5] + v.f, H[6] + v.g, H[7] + v.h] := by
  refine Vector.ext fun i hi => ?_
  rw [accumulate_word H v i hi]
  interval_cases i <;> rfl

theorem accumStep_last {s : State} (h : s.blk.toNat + 1 = s.nblk.toNat) :
    s.accumStep.phase = phaseIdle ∧ s.accumStep.done = true := by
  have hlast : s.lastBlock = true := (lastBlock_iff s).2 h
  exact ⟨if_pos hlast, if_pos hlast⟩

theorem accumStep_continues {s : State} (h : s.blk.toNat + 1 ≠ s.nblk.toNat) :
    s.accumStep.phase = phaseLoad ∧ s.accumStep.done = s.done := by
  have hlast : ¬ s.lastBlock = true := mt (lastBlock_iff s).1 h
  exact ⟨if_neg hlast, if_neg hlast⟩

/-- Settles O30: ACCUM's only answer is `accumStep`; the exact comparison of blk + 1 with nblk decides what follows. -/
theorem accumAddsIntoHash : Obligations.AccumAddsIntoHash := by
  unfold Obligations.AccumAddsIntoHash
  intro s
  exact ⟨s.accumStep, rfl, accumulate_eq _ _, rfl, accumStep_last, accumStep_continues, rfl⟩

end Sys2Proof.Machine

/-! The length error of 60_exceptions.md R138: LEN[63:61] is the quotient of LEN by 2^61, and START answers an overflow
in IDLE with LEN_OVERFLOW. -/

namespace Sys2Proof.Machine

/-- LEN[63:61] as a number. -/
theorem toNat_len_topThreeBits (s : State) : (s.len.extractLsb' 61 3).toNat = s.len.toNat / 2 ^ 61 := by
  have hlen : s.len.toNat < 2 ^ 64 := s.len.isLt
  rw [BitVec.extractLsb'_toNat, Nat.shiftRight_eq_div_pow]
  omega

theorem len_overflows_iff_topThreeBits (s : State) : 2 ^ 61 ≤ s.len.toNat ↔ s.len.extractLsb' 61 3 ≠ 0 := by
  rw [← BitVec.toNat_ne_iff_ne, toNat_len_topThreeBits, BitVec.ofNat_eq_ofNat, BitVec.toNat_zero]
  omega

/-- Settles O18: top bits that are not 0 are an overflow, and START in IDLE answers one with `raiseError`. -/
theorem lenOverflowIsTopThreeBits : Obligations.LenOverflowIsTopThreeBits := by
  unfold Obligations.LenOverflowIsTopThreeBits
  refine fun s => ⟨len_overflows_iff_topThreeBits s, fun data hp htop => ?_⟩
  have hlen : 2 ^ 61 ≤ s.len.toNat := (len_overflows_iff_topThreeBits s).2 htop
  exact ⟨s.raiseError errLenOverflow, exec_wrCtrlStart_of_overflow data hp hlen,
    statusWord_raiseError_lenOverflow hp, rfl⟩

end Sys2Proof.Machine

/-! Reset of 70_reset_and_hazards.md R155 to R157: whatever the engine was doing, the event's step is `resetStep`, whose
values the laws of the state give field by field. -/

namespace Sys2Proof.Machine

theorem step_reset {s : State} {rest : List Event} (h : s.agenda = .reset :: rest) :
    step s = .next { s with agenda := rest }.resetStep := step_event s .reset rest h

@[simp] theorem State.resetStep_busy (s : State) : s.resetStep.busy = false :=
  (not_busy_iff _).2 s.resetStep_phase

/-- Settles O10: the step is `resetStep` in every phase (`step_reset`), and each value is one of its fields. -/
theorem resetStepLeavesIdleEngine : Obligations.ResetStepLeavesIdleEngine := by
  unfold Obligations.ResetStepLeavesIdleEngine
  intro s rest h
  refine ⟨_, step_reset h, State.resetStep_phase _, ?_⟩
  simp only [State.resetStep_busy, State.resetStep_done, State.resetStep_err, State.resetStep_errCode,
    State.resetStep_len, State.resetStep_msg, State.resetStep_observed, State.resetStep_params,
    State.resetStep_agenda, and_self]

end Sys2Proof.Machine

/-! The encoding of 30_encoding.md R57 to R62: the decoder reads back what the encoder wrote, the encoder gives a decoded
word's canonical form, and the word's KEY and DATA[0] select its row of the opcode table. -/

namespace Sys2Proof

/-! ### Decoding what was encoded -/

theorem decode_encode_write (idx : BitVec 6) (d : Word) :
    decode (.hosttxn (hostWord true idx d)) = .ok (decodeWrite idx d) := by
  rw [decode, decodeHost_write]

theorem decode_encode_read (idx : BitVec 6) (d : Word) :
    decode (.hosttxn (hostWord false idx d)) = .ok (decodeRead idx) := by
  rw [decode, decodeHost_read]

theorem decodeWrite_start {d : Word} (h : d.getLsbD 0 = true) : decodeWrite 0 d = .wrCtrlStart d := by
  rw [decodeWrite, if_pos rfl, if_pos h]

theorem decodeWrite_nop {d : Word} (h : d.getLsbD 0 = false) : decodeWrite 0 d = .wrCtrlNop d := by
  rw [decodeWrite, if_pos rfl, h, if_neg Bool.false_ne_true]

/-- Each constructor is the row that its encoding's RW and IDX select; well-formedness gives the range of a reserved index
and DATA[0] of a write to CTRL. -/
theorem decode_encode {i : Instr} (h : i.wf = true) : decode (encode i) = .ok i := by
  cases i with
  | rdCtrl => exact decode_encode_read 0 0
  | rdStatus => exact decode_encode_read 1 0
  | rdLenLo => exact decode_encode_read 2 0
  | rdLenHi => exact decode_encode_read 3 0
  | rdRsvdA n => rw [encode, decode_encode_read, decodeRead_rsvdA n h]
  | rdDigest k => rw [encode, decode_encode_read, decodeRead_digest k]
  | rdRsvdB n => rw [encode, decode_encode_read, decodeRead_rsvdB n h]
  | rdRsvdC n => rw [encode, decode_encode_read, decodeRead_rsvdC n h]
  | wrCtrlStart d => rw [encode, decode_encode_write, decodeWrite_start h]
  | wrCtrlNop d => rw [encode, decode_encode_write, decodeWrite_nop (by simpa [Instr.wf] using h)]
  | wrStatus d => exact decode_encode_write 1 d
  | wrLenLo d => exact decode_encode_write 2 d
  | wrLenHi d => exact decode_encode_write 3 d
  | wrRsvdA n d => rw [encode, decode_encode_write, decodeWrite_rsvdA n d h]
  | wrDigest k d => rw [encode, decode_encode_write, decodeWrite_digest k d]
  | wrRsvdB n d => rw [encode, decode_encode_write, decodeWrite_rsvdB n d h]
  | wrRsvdC n d => rw [encode, decode_encode_write, decodeWrite_rsvdC n d h]
  | idle | load | expand | round | accum => rfl

/-- Settles O2: constructor by constructor (`decode_encode`), and the bytes of a code decode as the code does. -/
theorem decodeOfEncode : Obligations.DecodeOfEncode := by
  unfold Obligations.DecodeOfEncode
  intro i h
  have hdecode : decode (encode i) = .ok i := decode_encode h
  exact ⟨hdecode, by rw [decodeBytes_codeBytes, hdecode, liftCode]⟩

/-! ### Encoding what was decoded -/

theorem encode_decodeRead : ∀ idx : BitVec 6, encode (decodeRead idx) = .hosttxn (hostWord false idx 0) := by decide

theorem encode_decodeWrite (idx : BitVec 6) (d : Word) : encode (decodeWrite idx d) = .hosttxn (hostWord true idx d) := by
  unfold decodeWrite
  split_ifs with h0 hstart h1 h2 h3 hA hD hB
  · rw [h0]; rfl
  · rw [h0]; rfl
  · rw [h1]; rfl
  · rw [h2]; rfl
  · rw [h3]; rfl
  · rfl
  · rw [encode, digestIdx_digestIndex idx (by omega) hD]
  · rfl
  · rfl

theorem encode_decodeHost (w : BitVec 39) : encode (decodeHost w) = .hosttxn (canonicalWord w) := by
  unfold decodeHost canonicalWord
  split
  · next hrw => rw [encode_decodeWrite, ← hrw, hostWord_fields]
  · rw [encode_decodeRead]

/-- The word with only KEY and DATA[0] kept, which is all that the opcode table looks at. -/
def summaryWord (rw : Bool) (idx : BitVec 6) (b : Bool) : BitVec 39 :=
  hostWord rw idx ((BitVec.ofBool b).setWidth 32)

theorem and_summaryMask (w : BitVec 39) :
    w &&& 0x7f00000001#39 = summaryWord (hostRw w) (hostIdx w) (w.getLsbD 0) := hostWord_summary w

/-- KEY alone kept is the word with DATA = 0. -/
theorem and_keyMask (w : BitVec 39) : w &&& 0x7f00000000 = hostWord (hostRw w) (hostIdx w) 0 := by
  have cleared : ∀ (rw b : Bool) (idx : BitVec 6), summaryWord rw idx b &&& 0x7f00000000 = hostWord rw idx 0 := by decide
  calc w &&& 0x7f00000000 = w &&& 0x7f00000001#39 &&& 0x7f00000000 := by rw [BitVec.and_assoc]; rfl
    _ = hostWord (hostRw w) (hostIdx w) 0 := by rw [and_summaryMask, cleared]

theorem canonicalWord_eq (w : BitVec 39) : canonicalWord w = if w.getLsbD 38 then w else w &&& 0x7f00000000 := by
  rw [and_keyMask]
  unfold canonicalWord hostRw
  split
  · rfl
  · next hread => rw [Bool.eq_false_iff.2 hread]

theorem isRead_decodeHost (w : BitVec 39) : (decodeHost w).isRead = !w.getLsbD 38 := by
  show _ = !hostRw w
  unfold decodeHost
  cases hostRw w
  · exact (decodeRead_spec _).2.2
  · exact (decodeWrite_spec _ _).2.2

theorem wf_decodeHost (w : BitVec 39) : (decodeHost w).wf = true := by
  unfold decodeHost
  split
  · exact (decodeWrite_spec _ _).2.1
  · exact (decodeRead_spec _).2.1

/-- Settles O3: the instruction is `decodeHost w`, and it encodes to the canonical form of w (R62). -/
theorem everyHostWordDecodes : Obligations.EveryHostWordDecodes := by
  unfold Obligations.EveryHostWordDecodes
  intro w
  refine ⟨decodeHost w, rfl, decodeHost_isHost w, wf_decodeHost w, isRead_decodeHost w, ?_⟩
  rw [encode_decodeHost, canonicalWord_eq]

/-! ### The opcode table -/

/-- No two rows of the table share a word: where both masks look, their values differ. -/
theorem hostRows_disjoint :
    ∀ r ∈ hostRows, ∀ r' ∈ hostRows, r.value &&& r'.mask = r'.value &&& r.mask → r' = r := by decide

theorem hostRow_unique {w : BitVec 39} {r r' : HostRow} (hr : r ∈ hostRows) (hr' : r' ∈ hostRows)
    (h : w &&& r.mask = r.value) (h' : w &&& r'.mask = r'.value) : r' = r := by
  refine hostRows_disjoint r hr r' hr' ?_
  calc r.value &&& r'.mask = w &&& r.mask &&& r'.mask := by rw [h]
    _ = w &&& r'.mask &&& r.mask := by rw [BitVec.and_assoc, BitVec.and_comm r.mask, ← BitVec.and_assoc]
    _ = r'.value &&& r.mask := by rw [h']

/-- Every pair of KEY and DATA[0] has a row, whose mnemonic is that of the instruction decoded from it. -/
theorem summaryWord_row : ∀ (rw b : Bool) (idx : BitVec 6), ∃ r ∈ hostRows,
    summaryWord rw idx b &&& r.mask = r.value ∧ (decodeHost (summaryWord rw idx b)).mnemonic = r.mnemonic := by
  decide

/-- Of a word's DATA, the mnemonic depends on DATA[0] alone. -/
theorem mnemonic_decodeHost (w : BitVec 39) :
    (decodeHost w).mnemonic = (decodeHost (summaryWord (hostRw w) (hostIdx w) (w.getLsbD 0))).mnemonic := by
  have hbit : ((BitVec.ofBool (w.getLsbD 0)).setWidth 32 : Word).getLsbD 0 = (hostData w).getLsbD 0 := by
    rw [hostData_bit w 0 (by decide)]; simp
  unfold summaryWord decodeHost
  rw [hostRw_hostWord, hostIdx_hostWord, hostData_hostWord]
  split
  · unfold decodeWrite
    rw [hbit]
    split_ifs <;> rfl
  · rfl

theorem decode_seqRow {p : String × BitVec 3} (h : p ∈ seqRows) : ∃ i, decode (.seq p.2) = .ok i ∧ i.mnemonic = p.1 := by
  simp only [seqRows, List.mem_cons, List.not_mem_nil, or_false] at h
  obtain rfl | rfl | rfl | rfl | rfl := h
  · exact ⟨.idle, rfl, rfl⟩
  · exact ⟨.load, rfl, rfl⟩
  · exact ⟨.expand, rfl, rfl⟩
  · exact ⟨.round, rfl, rfl⟩
  · exact ⟨.accum, rfl, rfl⟩

/-- The codes of R59 that no step has. -/
theorem decode_seq_unreachable : ∀ c : BitVec 3, 5 ≤ c.toNat → decode (.seq c) = .error (.unreachablePhase c) := by decide

/-- Settles O4: the row of KEY and DATA[0] (`summaryWord_row`) is the word's, and no other is (`hostRow_unique`). -/
theorem decodeFollowsOpcodeTable : Obligations.DecodeFollowsOpcodeTable := by
  unfold Obligations.DecodeFollowsOpcodeTable
  refine ⟨fun w => ?_, fun p => decode_seqRow, decode_seq_unreachable⟩
  obtain ⟨r, hr, hmatch, hname⟩ := summaryWord_row (hostRw w) (w.getLsbD 0) (hostIdx w)
  have hw : w &&& r.mask = r.value := by rw [← hostRow_summary w r hr, and_summaryMask, hmatch]
  exact ⟨r, hr, hw, (mnemonic_decodeHost w).trans hname, fun r' hr' hw' => hostRow_unique hr hr' hw hw'⟩

/-- Settles O1: each word is a literal, which the decoder evaluates. -/
theorem writtenWordsDecode : Obligations.WrittenWordsDecode := by
  unfold Obligations.WrittenWordsDecode
  decide

end Sys2Proof

/-! What one instruction can do (45_host_interface.md R114 to R127, 46_sequencer.md R129 to R133): `Effect` lists the
named updates of the state, each with the instructions it belongs to, and `exec_effect` says that there is no other. The
writers' table, the record of racing bytes and the shape of a host transaction are read off that list. -/

namespace Sys2Proof.Machine

/-! ### The effects -/

/-- What an instruction that completes has done to s. -/
inductive Effect (s : State) : Instr → State → Prop
  | read {i} (v : Word) (h : i.isRead = true) : Effect s i (s.observe v)
  | draw {i} (v : Word) (h : i.isRead = true) : Effect s i (s.observe v).drawn
  | nothing {i} (h : i.isRead = false) : Effect s i s
  | setLenLo (d : Word) : Effect s (.wrLenLo d) (s.setLenLo d)
  | setLenHi (d : Word) : Effect s (.wrLenHi d) (s.setLenHi d)
  | reject (d : Word) (code : BitVec 4) (hp : s.phase = 0) (hcode : code = 1 ∨ code = 2) :
      Effect s (.wrCtrlStart d) (s.raiseError code)
  | accept (d : Word) (hp : s.phase = 0) (hlen : s.len.toNat ≤ s.params.maxLen.val) :
      Effect s (.wrCtrlStart d) s.acceptStart
  | load : Effect s .load s.loadBlock
  | expand (lo : 16 ≤ s.t.toNat) : Effect s .expand (s.expandStep lo)
  | round : Effect s .round s.roundStep
  | accum : Effect s .accum s.accumStep

theorem effect_start {s t : State} {d : Word} (h : execWrCtrlStart d s = .next t) : Effect s (.wrCtrlStart d) t := by
  obtain ⟨-, e⟩ | ⟨hp, -, e⟩ | ⟨hp, -, -, e⟩ | ⟨hp, -, hlen, e⟩ := execWrCtrlStart_cases s d <;> rw [e] at h <;> cases h
  · exact .nothing rfl
  · exact .reject d 1 hp (.inl rfl)
  · exact .reject d 2 hp (.inr rfl)
  · exact .accept d hp hlen

theorem effect_rdStatus {s t : State} (h : execRdStatus s = .next t) : Effect s .rdStatus t := by
  by_cases hcode : s.errCode.toNat ≤ 2
  · rw [execRdStatus_next s hcode] at h; cases h; exact .read _ rfl
  · rw [execRdStatus_reserved s (by omega)] at h; cases h

theorem effect_rdDigest {s t : State} {k : BitVec 3} (h : execRdDigest k s = .next t) : Effect s (.rdDigest k) t := by
  cases hd : s.done
  · rw [execRdDigest_not_done s k hd] at h; cases h; exact .draw _ rfl
  · rw [execRdDigest_done s k hd] at h; cases h; exact .read _ rfl

theorem effect_load {s t : State} (h : execLoad s = .next t) : Effect s .load t := by
  obtain ⟨-, -, e⟩ | ⟨-, e⟩ | ⟨-, -, e⟩ := execLoad_cases s <;> rw [e] at h <;> cases h
  exact .load

theorem effect_expand {s t : State} (h : execExpand s = .next t) : Effect s .expand t := by
  by_cases lo : 16 ≤ s.t.toNat
  · rw [execExpand_next s lo] at h; cases h; exact .expand lo
  · rw [execExpand_low s (by omega)] at h; cases h

theorem exec_effect {i : Instr} {s t : State} (h : exec i s = .next t) : Effect s i t := by
  cases i with
  | rdStatus => exact effect_rdStatus h
  | rdDigest k => exact effect_rdDigest h
  | rdCtrl | rdLenLo | rdLenHi | rdRsvdA | rdRsvdB | rdRsvdC => cases h; exact .read _ rfl
  | wrCtrlStart d => exact effect_start h
  | wrLenLo d => cases h; exact .setLenLo d
  | wrLenHi d => cases h; exact .setLenHi d
  | wrCtrlNop | wrStatus | wrRsvdA | wrDigest | wrRsvdB | wrRsvdC | idle => cases h; exact .nothing rfl
  | load => exact effect_load h
  | expand => exact effect_expand h
  | round => cases h; exact .round
  | accum => cases h; exact .accum

/-! ### The writers' table -/

/-- Settles O22: each effect belongs to its instructions and leaves every other element as it was. -/
theorem onlyTheNamedWritersWrite : Obligations.OnlyTheNamedWritersWrite := by
  unfold Obligations.OnlyTheNamedWritersWrite
  intro i s t h
  cases exec_effect h with
  | read v hread | draw v hread => simp [hread]
  | nothing | setLenLo | setLenHi | reject | accept | load | expand | round | accum => simp

/-! ### Host transactions -/

theorem exec_wrCtrlStart_completes (d : Word) (s : State) : ∃ t, exec (.wrCtrlStart d) s = .next t := by
  obtain ⟨-, e⟩ | ⟨-, -, e⟩ | ⟨-, -, -, e⟩ | ⟨-, -, -, e⟩ := execWrCtrlStart_cases s d <;> exact ⟨_, e⟩

theorem exec_rdDigest_completes (k : BitVec 3) (s : State) : ∃ t, exec (.rdDigest k) s = .next t := by
  cases hd : s.done
  · exact ⟨_, execRdDigest_not_done s k hd⟩
  · exact ⟨_, execRdDigest_done s k hd⟩

theorem exec_host_completes {i : Instr} {s : State} (hi : i.isHost = true)
    (hcode : i = .rdStatus → s.errCode.toNat ≤ 2) : ∃ t, exec i s = .next t := by
  cases i with
  | rdStatus => exact ⟨_, execRdStatus_next s (hcode rfl)⟩
  | rdDigest k => exact exec_rdDigest_completes k s
  | wrCtrlStart d => exact exec_wrCtrlStart_completes d s
  | idle | load | expand | round | accum => simp [Instr.isHost] at hi
  | _ => exact ⟨_, rfl⟩

/-- Settles O21: a transaction completes, and each of its effects is a read's or leaves the host's Words and the draws. -/
theorem hostTransactionsAlwaysComplete : Obligations.HostTransactionsAlwaysComplete := by
  unfold Obligations.HostTransactionsAlwaysComplete
  intro i s hi hcode
  obtain ⟨t, h⟩ := exec_host_completes hi hcode
  refine ⟨t, h, ?_⟩
  cases exec_effect h with
  | read v hread | draw v hread => exact ⟨fun _ => ⟨v, rfl⟩, fun hwrite => absurd hread (by simp [hwrite])⟩
  | nothing hwrite => exact ⟨fun hread => absurd hread (by simp [hwrite]), fun _ => ⟨rfl, rfl⟩⟩
  | setLenLo | setLenHi | reject | accept => exact ⟨fun hread => by simp [Instr.isRead] at hread, fun _ => ⟨rfl, rfl⟩⟩
  | load | expand | round | accum => simp [Instr.isHost] at hi

theorem decode_of_digestKey : ∀ (k : BitVec 7) (i : BitVec 3), k = 0x08 + i.setWidth 7 →
    k.getLsbD 6 = false ∧ k.extractLsb' 0 6 = digestIdx i := by decide

/-- Settles O15: KEY 0x08 + i is the row of digest word i, and DONE decides between the two answers. -/
theorem rdDigestYieldsHashWord : Obligations.RdDigestYieldsHashWord := by
  unfold Obligations.RdDigestYieldsHashWord
  refine ⟨fun w i hkey => ?_, fun s i => ⟨execRdDigest_done s i, execRdDigest_not_done s i⟩⟩
  obtain ⟨hread, hidx⟩ := decode_of_digestKey _ i hkey
  rw [decode_of_hostKey w _ rfl, hread, hidx, if_neg Bool.false_ne_true, decodeRead_digest]

/-- Settles O58: the invariants leave ERRCODE 0, 1 and 2; RD_STATUS faults on the others. -/
theorem reservedErrorCodeFaults : Obligations.ReservedErrorCodeFaults := by
  unfold Obligations.ReservedErrorCodeFaults
  exact ⟨fun _ => EngineInv.errCode_le_two, execRdStatus_reserved⟩

/-! ### Where micro-steps stop -/

/-- Settles O26: the three cases of LOAD exclude each other, and none answers with the padding assertion. -/
theorem loadStopsOnlyOutOfRange : Obligations.LoadStopsOnlyOutOfRange := by
  unfold Obligations.LoadStopsOnlyOutOfRange
  intro s
  simp only [exec]
  obtain ⟨hlen, hblk, h⟩ | ⟨hlen, h⟩ | ⟨hlen, hblk, h⟩ := execLoad_cases s <;> rw [h]
  · exact ⟨fun h => by omega, fun _ h => by omega, fun _ _ => ⟨_, rfl⟩, nofun⟩
  · exact ⟨fun _ => rfl, fun h => by omega, fun h => by omega, nofun⟩
  · exact ⟨fun h => by omega, fun _ _ => rfl, fun _ h => by omega, nofun⟩

/-- Settles O28. -/
theorem expandBelowSixteenFaults : Obligations.ExpandBelowSixteenFaults := by
  unfold Obligations.ExpandBelowSixteenFaults
  exact execExpand_low

/-! ### Racing bytes (20_memory.md R51) -/

theorem messageOverwritten_of_nil {s : State} (h : s.overwritten = []) (i : Nat) : s.messageOverwritten i = [] := by
  rw [State.messageOverwritten, h, valuesOverwritten_nil]

theorem messageOverwritten_storeByte (s : State) (l : Nat) (b : Byte) (i : Nat) :
    (s.storeByte l b).messageOverwritten i =
      if s.params.msgMap.location i = l ∧ s.phase ≠ 0 then s.messageByte i :: s.messageOverwritten i
      else s.messageOverwritten i := by
  by_cases hl : s.location i = l
  · subst hl
    cases hb : s.busy
    · have hp : s.phase = 0 := (not_busy_iff s).1 hb
      simp [State.messageOverwritten, hb, hp]
    · have hp : s.phase ≠ 0 := (busy_iff s).1 hb
      simp only [State.messageOverwritten, State.storeByte_overwritten, hb, if_true, location_storeByte,
        valuesOverwritten_cons]
      rw [if_pos ⟨rfl, hp⟩]; rfl
  · rw [if_neg (fun h => hl h.1)]
    exact (message_storeByte_other s l b i hl).2

/-- The only instruction that touches the record is a START, which empties it when accepted. -/
theorem overwritten_of_exec {i : Instr} {s t : State} (h : exec i s = .next t) :
    t.overwritten = s.overwritten ∨ ((∃ data, i = .wrCtrlStart data) ∧ t.phase = 1 ∧ t.overwritten = []) := by
  cases exec_effect h with
  | accept d => exact .inr ⟨⟨d, rfl⟩, rfl, rfl⟩
  | _ => exact .inl rfl

/-- Settles O9: the port's choice is among the recorded values (`portByte_mem`), which stores add and STARTs drop. -/
theorem racingByteIsOneItHeld : Obligations.RacingByteIsOneItHeld := by
  unfold Obligations.RacingByteIsOneItHeld
  refine ⟨fun s i => List.mem_cons.1 (s.portByte_mem i), State.portByte_quiet, messageOverwritten_storeByte,
    fun s data hp hlen => ?_, fun i s t => overwritten_of_exec⟩
  exact ⟨s.acceptStart, exec_wrCtrlStart_of_legal data hp hlen, rfl, messageOverwritten_of_nil rfl⟩

end Sys2Proof.Machine

/-! The machine's step (00_scope.md R11, 20_memory.md R43, R49): `StepCase` lists what the next event's agent can have done
when the step completes, on the state with the event taken off (`State.dequeue`). -/

namespace Sys2Proof.Machine

/-! ### The next event -/

/-- The state with its next event, if one is pending, taken off the agenda. -/
def State.dequeue (s : State) : State := { s with agenda := s.agenda.tail }

theorem dequeue_of_agenda {s : State} {e : Event} {rest : List Event} (h : s.agenda = e :: rest) :
    s.dequeue = { s with agenda := rest } := by
  rw [State.dequeue, h, List.tail_cons]

theorem step_of_agenda {s : State} {e : Event} {rest : List Event} (h : s.agenda = e :: rest) :
    step s = agentStep e s.dequeue := by
  rw [step_event s e rest h, dequeue_of_agenda h]

theorem step_of_engineNext {s : State} (h : EngineNext s) : step s = engineStep s.dequeue := step_engineNext s h

/-- The next event makes the host's transaction w: the host's own, or a platform access to the index of w. -/
inductive HostNext (s : State) : BitVec 39 → Prop
  | host {w rest} (h : s.agenda = .host w :: rest) : HostNext s w
  | bus {acc rest} (n : BitVec 6) (h : s.agenda = .bus acc :: rest) (haddr : acc.addr = s.params.regBase + 4 * n.toNat) :
      HostNext s (hostWord acc.write n (if acc.write then acc.data else 0))

/-- What a step that completes has done to s. -/
inductive StepCase (s : State) : State → Prop
  | engine {t} (hnext : EngineNext s) (h : engineStep s.dequeue = .next t) : StepCase s t
  | host {w t} (hnext : HostNext s w) (h : Effect s.dequeue (decodeHost w) t) : StepCase s t
  | store {l b rest} (h : s.agenda = .store l b :: rest) : StepCase s (s.dequeue.storeByte l b)
  | reset {rest} (h : s.agenda = .reset :: rest) : StepCase s s.dequeue.resetStep

theorem hostStep_effect {w : BitVec 39} {s t : State} (h : hostStep w s = .next t) : Effect s (decodeHost w) t :=
  exec_effect (hostStep_eq w s ▸ h)

theorem step_cases {s t : State} (h : step s = .next t) : StepCase s t := by
  rcases hagenda : s.agenda with _ | ⟨e, rest⟩
  · have hnext : EngineNext s := .inl hagenda
    exact .engine hnext (step_of_engineNext hnext ▸ h)
  · rw [step_of_agenda hagenda] at h
    cases e with
    | host w => exact .host (.host hagenda) (hostStep_effect h)
    | bus acc =>
      change busStep acc s.dequeue = .next t at h
      obtain ⟨n, -, haddr, e⟩ | e | e := busStep_cases acc s.dequeue <;> rw [e] at h
      · exact .host (.bus n hagenda haddr) (hostStep_effect h)
      · cases h
      · cases h
    | store l b => cases h; exact .store hagenda
    | engine => exact .engine (.inr ⟨rest, hagenda⟩) h
    | reset => cases h; exact .reset hagenda

/-! ### What the next event runs -/

theorem engineStep_of_decode {s : State} {i : Instr} (h : decode (.seq s.phase) = .ok i) : engineStep s = exec i s :=
  runCode_ok h s

/-- Settles O5: each agent's step runs the instruction its code decodes to. -/
theorem stepRunsDecodedInstruction : Obligations.StepRunsDecodedInstruction := by
  unfold Obligations.StepRunsDecodedInstruction
  refine ⟨fun s w rest i hagenda hdecode => ?_, fun s i hnext hdecode => ?_⟩
  · rw [step_event s _ rest hagenda]
    exact runCode_ok hdecode _
  · rw [step_of_engineNext hnext]
    exact engineStep_of_decode (s := s.dequeue) hdecode

/-- Settles O6. -/
theorem unreachablePhaseFaults : Obligations.UnreachablePhaseFaults := by
  unfold Obligations.UnreachablePhaseFaults
  intro s hnext hphase
  rw [step_of_engineNext hnext]
  exact engineStep_unreachable s.dequeue hphase

/-- Settles O24: IDLE is the micro-step of phase 0, and its answer is the state it is given. -/
theorem idleChangesNothing : Obligations.IdleChangesNothing := by
  unfold Obligations.IdleChangesNothing
  refine ⟨fun _ => rfl, fun s hnext hphase => ?_⟩
  rw [step_of_engineNext hnext]
  exact engineStep_idle s.dequeue hphase

/-! ### Platform accesses -/

theorem busTransaction_index {p : Params} {acc : BusAccess} (n : BitVec 6) (hsize : acc.size = 4)
    (haddr : acc.addr = p.regBase + 4 * n.toNat) :
    busTransaction p acc = .ok (hostWord acc.write n (if acc.write then acc.data else 0)) := by
  have hn : n.toNat < 64 := n.isLt
  have hidx : BitVec.ofNat 6 ((acc.addr - p.regBase) / 4) = n := by
    rw [haddr, Nat.add_sub_cancel_left, Nat.mul_div_cancel_left _ (by decide), BitVec.ofNat_toNat, BitVec.setWidth_eq]
  unfold busTransaction
  rw [if_neg (by omega), if_pos (by omega), hidx]

theorem busTransaction_unsupported {p : Params} {acc : BusAccess} (lo : p.regBase ≤ acc.addr)
    (hi : acc.addr < p.regBase + 256) (h : acc.size ≠ 4 ∨ (acc.addr - p.regBase) % 4 ≠ 0) :
    busTransaction p acc = .error .unsupportedBusAccess := by
  unfold busTransaction
  rw [if_neg (by omega), if_neg (by omega)]

theorem busTransaction_outside {p : Params} {acc : BusAccess}
    (h : acc.addr < p.regBase ∨ p.regBase + 256 ≤ acc.addr) : busTransaction p acc = .error .outsideRegisterWindow :=
  if_pos h

theorem busStep_ok {acc : BusAccess} {s : State} {w : BitVec 39} (h : busTransaction s.params acc = .ok w) :
    busStep acc s = exec (decodeHost w) s := by
  rw [busStep, h, ← hostStep_eq]

theorem busStep_error {acc : BusAccess} {s : State} {r : Refusal} (h : busTransaction s.params acc = .error r) :
    busStep acc s = .refused r := by
  rw [busStep, h]

theorem decodeHost_hostWord (wr : Bool) (n : BitVec 6) (d : Word) :
    decodeHost (hostWord wr n d) = if wr then decodeWrite n d else decodeRead n := by
  cases wr
  · exact decodeHost_read n d
  · exact decodeHost_write n d

/-- Settles O7: the three cases of the bus translation, and the instruction that the translated word decodes to. -/
theorem busAccessIsTransactionOrRefused : Obligations.BusAccessIsTransactionOrRefused := by
  unfold Obligations.BusAccessIsTransactionOrRefused
  intro s acc rest hagenda
  rw [step_of_agenda hagenda, ← dequeue_of_agenda hagenda]
  refine ⟨fun n hsize haddr => ?_, fun lo hi h => busStep_error (s := s.dequeue) (busTransaction_unsupported lo hi h),
    fun h => busStep_error (s := s.dequeue) (busTransaction_outside h)⟩
  refine (busStep_ok (s := s.dequeue) (busTransaction_index n hsize haddr)).trans ?_
  rw [decodeHost_hostWord]
  cases acc.write <;> rfl

/-! ### Host writes to the message memory -/

theorem messageByte_storeByte (s : State) (l : Nat) (b : Byte) (i : Nat) :
    (s.storeByte l b).messageByte i = if s.params.msgMap.location i = l then b else s.messageByte i := by
  split
  · next h =>
    show (s.storeByte l b).memoryByte (s.location i) = b
    rw [State.location, h, memoryByte_storeByte_same]
  · next h => exact (message_storeByte_other s l b i h).1

/-- Settles O8: the step is `storeByte`, whose reads are the memory's reads after a write. -/
theorem hostStoreWritesOneByte : Obligations.HostStoreWritesOneByte := by
  unfold Obligations.HostStoreWritesOneByte
  intro s l b rest hagenda
  exact ⟨_, step_event s _ rest hagenda, memoryByte_storeByte_same _ l b, memoryByte_storeByte_other _ l b,
    messageByte_storeByte _ l b, rfl⟩

/-- No instruction writes the message memory (20_memory.md R38). -/
theorem Effect.msg {s t : State} {i : Instr} (h : Effect s i t) : t.msg = s.msg := by cases h <;> rfl

theorem engineStep_msg {s t : State} (h : engineStep s = .next t) : t.msg = s.msg := by
  obtain ⟨-, rfl⟩ | ⟨-, -, -, rfl⟩ | ⟨-, lo, rfl⟩ | ⟨-, rfl⟩ | ⟨-, rfl⟩ := engineStep_cases s t h <;> rfl

/-- Settles O49: of the steps only the host's store changes the memory, and it keeps the form. -/
theorem stepKeepsMemoryCanonical : Obligations.StepKeepsMemoryCanonical := by
  unfold Obligations.StepKeepsMemoryCanonical
  intro s t hwf h
  cases step_cases h with
  | engine hnext h => exact engineStep_msg h ▸ hwf
  | host hnext h => exact h.msg ▸ hwf
  | store h => exact storeByte_memory_wf s.dequeue _ _ hwf
  | reset h => exact hwf

end Sys2Proof.Machine

/-! The invariants of 10_state.md R36: what they say of a busy engine (`BusyInv`) is kept by every step of the engine, and
the host's transactions other than an accepted START, its stores and reset touch none of it. -/

namespace Sys2Proof.Machine

/-- What clauses (1), (3) and (5) of R36 say while BUSY = 1. -/
structure BusyInv (s : State) : Prop where
  not_done : s.done = false
  no_error : s.err = false
  no_code : s.errCode = 0
  length : s.mlen.toNat ≤ s.params.maxLen.val
  blocks : s.nblk.toNat = (s.mlen.toNat + 8) / 64 + 1
  block : s.blk.toNat < s.nblk.toNat

section
variable {s : State}

theorem EngineInv.busyInv (h : EngineInv s) (hp : s.phase ≠ 0) : BusyInv s := by
  have hbusy : s.busy = true := (busy_iff s).2 hp
  obtain ⟨hdone, herr⟩ := h.busy_flags hbusy
  obtain ⟨hlen, hblocks, hblock⟩ := h.busy_length hbusy
  exact ⟨hdone, herr, h.no_error herr, hlen, hblocks, hblock⟩

theorem BusyInv.engineInv (h : BusyInv s) (hp : s.phase.toNat ≤ 4) (ht : s.phase = phaseExpand → 16 ≤ s.t.toNat) :
    EngineInv s where
  busy_flags _ := ⟨h.not_done, h.no_error⟩
  not_both hboth := by simp [h.no_error] at hboth
  no_error _ := h.no_code
  error_code herr := by simp [h.no_error] at herr
  busy_length _ := ⟨h.length, h.blocks, h.block⟩
  expand_index := ht
  phase_legal := hp

/-- In IDLE only the flags are bound. -/
theorem engineInv_of_idle (hp : s.phase = 0) (hboth : ¬(s.done = true ∧ s.err = true))
    (hok : s.err = false → s.errCode = 0) (hcode : s.err = true → s.errCode = 1 ∨ s.errCode = 2) : EngineInv s where
  busy_flags hbusy := absurd hp ((busy_iff s).1 hbusy)
  not_both := hboth
  no_error := hok
  error_code := hcode
  busy_length hbusy := absurd hp ((busy_iff s).1 hbusy)
  expand_index he := by rw [hp] at he; cases he
  phase_legal := by rw [hp]; decide

theorem engineInv_of_idle_ok (hp : s.phase = 0) (herr : s.err = false) (hcode : s.errCode = 0) : EngineInv s :=
  engineInv_of_idle hp (by simp [herr]) (fun _ => hcode) (by simp [herr])

/-- LOAD, EXPAND and ROUND change nothing that `BusyInv` speaks of. -/
theorem BusyInv.withDatapath (h : BusyInv s) (W : Vector Word 64) (ws : WorkingState) (t : BitVec 6) (phase : BitVec 3)
    (draws : Nat) : BusyInv { s with W := W, ws := ws, t := t, phase := phase, draws := draws } :=
  ⟨h.not_done, h.no_error, h.no_code, h.length, h.blocks, h.block⟩

/-- The invariants do not speak of LEN, the host's Words, the draws, the agenda and the message memory. -/
theorem EngineInv.withHostFields (h : EngineInv s) (len : Len64) (observed : List Word) (draws : Nat)
    (agenda : List Event) (msg : Memory) (overwritten : List Host.Cell) :
    EngineInv { s with len := len, observed := observed, draws := draws, agenda := agenda, msg := msg,
                       overwritten := overwritten } :=
  ⟨h.busy_flags, h.not_both, h.no_error, h.error_code, h.busy_length, h.expand_index, h.phase_legal⟩

/-! ### The engine's steps -/

theorem BusyInv.loadBlock_inv (h : BusyInv s) : EngineInv s.loadBlock :=
  BusyInv.engineInv (h.withDatapath ..) (by rw [State.loadBlock_phase]; decide) (fun _ => by rw [State.loadBlock_t]; decide)

theorem BusyInv.expandStep_inv (h : BusyInv s) (hp : s.phase = 2) (lo : 16 ≤ s.t.toNat) : EngineInv (s.expandStep lo) := by
  have hb : BusyInv (s.expandStep lo) := h.withDatapath ..
  obtain ht | ht : s.t.toNat = 63 ∨ s.t.toNat < 63 := by omega
  · obtain ⟨-, hphase⟩ := expandStep_last lo ht
    exact hb.engineInv (by rw [hphase]; decide) (by rw [hphase]; nofun)
  · obtain ⟨hnext, hphase⟩ := expandStep_continues lo ht
    exact hb.engineInv (by rw [hphase, hp]; decide) (fun _ => by omega)

theorem BusyInv.roundStep_inv (h : BusyInv s) (hp : s.phase = 3) : EngineInv s.roundStep := by
  have hb : BusyInv s.roundStep := h.withDatapath ..
  obtain ht | ht : s.t.toNat = 63 ∨ s.t.toNat < 63 := by omega
  · obtain ⟨-, hphase⟩ := roundStep_last ht
    exact hb.engineInv (by rw [hphase]; decide) (by rw [hphase]; nofun)
  · obtain ⟨-, hphase⟩ := roundStep_continues ht
    exact hb.engineInv (by rw [hphase, hp]; decide) (by rw [hphase, hp]; nofun)

theorem BusyInv.accumStep_inv (h : BusyInv s) : EngineInv s.accumStep := by
  have hblk : s.accumStep.blk.toNat = s.blk.toNat + 1 := blk_add_one s h.block
  by_cases hlast : s.blk.toNat + 1 = s.nblk.toNat
  · obtain ⟨hphase, -⟩ := accumStep_last hlast
    have herr : s.accumStep.err = false := h.no_error
    exact engineInv_of_idle_ok hphase herr h.no_code
  · obtain ⟨hphase, hdone⟩ := accumStep_continues hlast
    have hmore : s.accumStep.blk.toNat < s.accumStep.nblk.toNat := by
      have hlt := h.block
      rw [hblk, State.accumStep_nblk]; omega
    have hb : BusyInv s.accumStep := ⟨hdone.trans h.not_done, h.no_error, h.no_code, h.length, h.blocks, hmore⟩
    exact hb.engineInv (by rw [hphase]; decide) (by rw [hphase]; nofun)

theorem engineStep_keeps_inv {t : State} (hs : EngineInv s) (h : engineStep s = .next t) : EngineInv t := by
  obtain ⟨-, rfl⟩ | ⟨hp, -, -, rfl⟩ | ⟨hp, lo, rfl⟩ | ⟨hp, rfl⟩ | ⟨hp, rfl⟩ := engineStep_cases s t h
  · exact hs
  · exact (hs.busyInv (by simp [hp])).loadBlock_inv
  · exact (hs.busyInv (by simp [hp])).expandStep_inv hp lo
  · exact (hs.busyInv (by simp [hp])).roundStep_inv hp
  · exact (hs.busyInv (by simp [hp])).accumStep_inv

/-! ### The other agents -/

theorem raiseError_inv {code : BitVec 4} (hp : s.phase = 0) (hcode : code = 1 ∨ code = 2) :
    EngineInv (s.raiseError code) :=
  engineInv_of_idle hp (by simp) (by simp) (fun _ => hcode)

theorem acceptStart_inv (hlen : s.len.toNat ≤ s.params.maxLen.val) : EngineInv s.acceptStart := by
  have hmax : s.params.maxLen.val < 2 ^ 61 := s.params.maxLen.isLt
  have hblocks : s.acceptStart.nblk.toNat = (s.len.toNat + 8) / 64 + 1 := blockCount_toNat _ (by omega)
  have hb : BusyInv s.acceptStart := ⟨rfl, rfl, rfl, hlen, hblocks, by rw [hblocks]; exact Nat.succ_pos _⟩
  exact hb.engineInv (by simp [phaseLoad]) nofun

theorem resetStep_inv (s : State) : EngineInv s.resetStep :=
  engineInv_of_idle_ok rfl rfl rfl

theorem Effect.keeps_inv {i : Instr} {t : State} (h : Effect s i t) (hi : i.isHost = true) (hs : EngineInv s) :
    EngineInv t := by
  cases h with
  | read | draw | nothing | setLenLo | setLenHi => exact hs.withHostFields ..
  | reject d code hp hcode => exact raiseError_inv hp hcode
  | accept d hp hlen => exact acceptStart_inv hlen
  | load | expand | round | accum => simp [Instr.isHost] at hi

end

/-- Settles O48: each agent's step keeps the invariants of the state it finds, which the event taken off does not touch. -/
theorem stepKeepsInvariants : Obligations.StepKeepsInvariants := by
  unfold Obligations.StepKeepsInvariants
  intro s t hs h
  have hq : EngineInv s.dequeue := hs.withHostFields ..
  cases step_cases h with
  | engine hnext h => exact engineStep_keeps_inv hq h
  | host hnext h => exact h.keeps_inv (decodeHost_isHost _) hq
  | store h => exact hq.withHostFields ..
  | reset h => exact resetStep_inv _

/-- Settles O47. -/
theorem invariantsHoldAtReset : Obligations.InvariantsHoldAtReset := by
  unfold Obligations.InvariantsHoldAtReset
  exact engineInv_of_idle_ok rfl rfl rfl

/-- Settles O11: the values stand in State.reset. -/
theorem resetStateHasSpecifiedValues : Obligations.ResetStateHasSpecifiedValues := by
  unfold Obligations.ResetStateHasSpecifiedValues
  decide

end Sys2Proof.Machine

/-! How a computation goes on (46_sequencer.md R128, R134, R135): in a state of the invariants the engine's step completes,
and of the 114 steps of each block it leaves one fewer (`engineStep_counts_down`). The steps left give the phase and the
block, so the runs follow the fixed sequence. -/

namespace Sys2Proof.Machine

section
variable {s t : State}

theorem EngineInv.phase_cases (h : EngineInv s) :
    s.phase = 0 ∨ s.phase = 1 ∨ s.phase = 2 ∨ s.phase = 3 ∨ s.phase = 4 := by
  have all : ∀ c : BitVec 3, c.toNat ≤ 4 → c = 0 ∨ c = 1 ∨ c = 2 ∨ c = 3 ∨ c = 4 := by decide
  exact all s.phase h.phase_legal

/-! ### The step completes -/

theorem EngineInv.engineStep_completes (h : EngineInv s) : ∃ t, engineStep s = .next t := by
  obtain hp | hp | hp | hp | hp := h.phase_cases
  · exact ⟨_, engineStep_idle s hp⟩
  · have hb : BusyInv s := h.busyInv (by simp [hp])
    have hmlen : s.mlen.toNat < 2 ^ 61 := lt_of_le_of_lt hb.length s.params.maxLen.isLt
    exact ⟨_, (engineStep_load s hp).trans (execLoad_next s hmlen hb.block)⟩
  · exact ⟨_, (engineStep_expand s hp).trans (execExpand_next s (h.expand_index hp))⟩
  · exact ⟨_, engineStep_round s hp⟩
  · exact ⟨_, engineStep_accum s hp⟩

/-- What no micro-step changes: the host's side of the state, and the length and block count latched by START. -/
structure EngineFrame (s t : State) : Prop where
  len : t.len = s.len
  mlen : t.mlen = s.mlen
  nblk : t.nblk = s.nblk
  msg : t.msg = s.msg
  observed : t.observed = s.observed
  params : t.params = s.params
  source : t.source = s.source
  agenda : t.agenda = s.agenda

theorem engineStep_frame (h : engineStep s = .next t) : EngineFrame s t := by
  obtain ⟨-, rfl⟩ | ⟨-, -, -, rfl⟩ | ⟨-, lo, rfl⟩ | ⟨-, rfl⟩ | ⟨-, rfl⟩ := engineStep_cases s t h <;>
    exact ⟨rfl, rfl, rfl, rfl, rfl, rfl, rfl, rfl⟩

theorem EngineInv.dequeue (h : EngineInv s) : EngineInv s.dequeue := h.withHostFields ..

end

/-- Settles O50: in each phase of the invariants the micro-step completes, within its frame. -/
theorem busyEngineIsNeverStuck : Obligations.BusyEngineIsNeverStuck := by
  unfold Obligations.BusyEngineIsNeverStuck
  intro s hs hnext
  obtain ⟨t, h⟩ := hs.dequeue.engineStep_completes
  have hframe : EngineFrame s.dequeue t := engineStep_frame h
  refine ⟨t, (step_of_engineNext hnext).trans h, hframe.len, hframe.mlen, hframe.nblk, hframe.msg, hframe.observed,
    fun hp => ?_⟩
  have hidle : engineStep s.dequeue = .next s.dequeue := engineStep_idle s.dequeue hp
  rw [hidle] at h; cases h; rfl

/-! ### The steps left -/

section
variable {s t : State}

theorem stepsLeft_idle (hp : s.phase = 0) : stepsLeft s = 0 := by
  simp [stepsLeft, hp, phaseLoad, phaseExpand, phaseRound, phaseAccum]

theorem stepsLeft_load (hp : s.phase = 1) : stepsLeft s = 114 * (s.nblk.toNat - s.blk.toNat) := by
  simp [stepsLeft, hp, phaseLoad]

theorem stepsLeft_expand (hp : s.phase = 2) :
    stepsLeft s = 114 * (s.nblk.toNat - s.blk.toNat) - 1 - (s.t.toNat - 16) := by
  simp [stepsLeft, hp, phaseLoad, phaseExpand]

theorem stepsLeft_round (hp : s.phase = 3) : stepsLeft s = 114 * (s.nblk.toNat - s.blk.toNat) - 49 - s.t.toNat := by
  simp [stepsLeft, hp, phaseLoad, phaseExpand, phaseRound]

theorem stepsLeft_accum (hp : s.phase = 4) : stepsLeft s = 114 * (s.nblk.toNat - s.blk.toNat) - 113 := by
  simp [stepsLeft, hp, phaseLoad, phaseExpand, phaseRound, phaseAccum]

/-- A busy engine stands at one of the 114 steps of its block, and the steps left are that many fewer. -/
theorem EngineInv.position (h : EngineInv s) (hp : s.phase ≠ 0) : ∃ j < 114, s.phase = phaseOfStep j ∧
    stepsLeft s + j = 114 * (s.nblk.toNat - s.blk.toNat) := by
  have hblock : s.blk.toNat < s.nblk.toNat := (h.busyInv hp).block
  have ht : s.t.toNat < 64 := s.t.isLt
  obtain hp' | hp' | hp' | hp' | hp' := h.phase_cases
  · contradiction
  · exact ⟨0, by omega, hp', stepsLeft_load hp'⟩
  · have lo : 16 ≤ s.t.toNat := h.expand_index hp'
    refine ⟨1 + (s.t.toNat - 16), by omega, ?_, by rw [stepsLeft_expand hp']; omega⟩
    rw [phaseOfStep, if_neg (by omega), if_pos (by omega), hp']; rfl
  · refine ⟨49 + s.t.toNat, by omega, ?_, by rw [stepsLeft_round hp']; omega⟩
    rw [phaseOfStep, if_neg (by omega), if_neg (by omega), if_pos (by omega), hp']; rfl
  · exact ⟨113, by omega, hp', by rw [stepsLeft_accum hp']; omega⟩

theorem EngineInv.phase_eq_zero_iff (h : EngineInv s) : s.phase = 0 ↔ stepsLeft s = 0 := by
  refine ⟨stepsLeft_idle, fun hleft => ?_⟩
  by_contra hp
  obtain ⟨j, hj, -, hsum⟩ := h.position hp
  have hblock : s.blk.toNat < s.nblk.toNat := (h.busyInv hp).block
  omega

/-! ### Counting down -/

theorem loadBlock_counts_down (hp : s.phase = 1) (hblock : s.blk.toNat < s.nblk.toNat) :
    stepsLeft s.loadBlock + 1 = stepsLeft s := by
  rw [stepsLeft_expand s.loadBlock_phase, stepsLeft_load hp, State.loadBlock_t, State.loadBlock_nblk, State.loadBlock_blk,
    show (16 : BitVec 6).toNat = 16 from rfl]
  omega

theorem expandStep_counts_down (hp : s.phase = 2) (lo : 16 ≤ s.t.toNat) (hblock : s.blk.toNat < s.nblk.toNat) :
    stepsLeft (s.expandStep lo) + 1 = stepsLeft s := by
  obtain ht | ht : s.t.toNat = 63 ∨ s.t.toNat < 63 := by have := s.t.isLt; omega
  · obtain ⟨hnext, hphase⟩ := expandStep_last lo ht
    rw [stepsLeft_round hphase, stepsLeft_expand hp, hnext, State.expandStep_nblk, State.expandStep_blk, ht,
      show (0 : BitVec 6).toNat = 0 from rfl]
    omega
  · obtain ⟨hnext, hphase⟩ := expandStep_continues lo ht
    rw [stepsLeft_expand (hphase.trans hp), stepsLeft_expand hp, hnext, State.expandStep_nblk, State.expandStep_blk]
    omega

theorem roundStep_counts_down (hp : s.phase = 3) (hblock : s.blk.toNat < s.nblk.toNat) :
    stepsLeft s.roundStep + 1 = stepsLeft s := by
  obtain ht | ht : s.t.toNat = 63 ∨ s.t.toNat < 63 := by have := s.t.isLt; omega
  · obtain ⟨-, hphase⟩ := roundStep_last ht
    rw [stepsLeft_accum hphase, stepsLeft_round hp, State.roundStep_nblk, State.roundStep_blk, ht]
    omega
  · obtain ⟨hnext, hphase⟩ := roundStep_continues ht
    rw [stepsLeft_round (hphase.trans hp), stepsLeft_round hp, hnext, State.roundStep_nblk, State.roundStep_blk]
    omega

theorem accumStep_counts_down (hp : s.phase = 4) (hblock : s.blk.toNat < s.nblk.toNat) :
    stepsLeft s.accumStep + 1 = stepsLeft s := by
  have hblk : s.accumStep.blk.toNat = s.blk.toNat + 1 := blk_add_one s hblock
  rw [stepsLeft_accum hp]
  by_cases hlast : s.blk.toNat + 1 = s.nblk.toNat
  · rw [stepsLeft_idle (accumStep_last hlast).1]
    omega
  · rw [stepsLeft_load (accumStep_continues hlast).1, hblk, State.accumStep_nblk]
    omega

theorem engineStep_counts_down (hs : EngineInv s) (hp : s.phase ≠ 0) (h : engineStep s = .next t) :
    stepsLeft t + 1 = stepsLeft s := by
  have hblock : s.blk.toNat < s.nblk.toNat := (hs.busyInv hp).block
  obtain ⟨hp', rfl⟩ | ⟨hp', -, -, rfl⟩ | ⟨hp', lo, rfl⟩ | ⟨hp', rfl⟩ | ⟨hp', rfl⟩ := engineStep_cases s t h
  · contradiction
  · exact loadBlock_counts_down hp' hblock
  · exact expandStep_counts_down hp' lo hblock
  · exact roundStep_counts_down hp' hblock
  · exact accumStep_counts_down hp' hblock

/-- A busy engine becomes IDLE by the ACCUM of the last block alone. -/
theorem engineStep_done_of_idle (hp : s.phase ≠ 0) (h : engineStep s = .next t) (ht : t.phase = 0) : t.done = true := by
  obtain ⟨hp', -⟩ | ⟨-, -, -, rfl⟩ | ⟨hp', lo, rfl⟩ | ⟨hp', rfl⟩ | ⟨hp', rfl⟩ := engineStep_cases s t h
  · contradiction
  · cases ht
  · rw [State.expandStep_phase, hp'] at ht
    split at ht <;> cases ht
  · rw [State.roundStep_phase, hp'] at ht
    split at ht <;> cases ht
  · by_cases hlast : s.blk.toNat + 1 = s.nblk.toNat
    · exact (accumStep_last hlast).2
    · rw [(accumStep_continues hlast).1] at ht; cases ht

end

/-- Settles O51: the count goes down in each phase, and is 0 in IDLE alone (`EngineInv.phase_eq_zero_iff`). -/
theorem engineStepCountsDown : Obligations.EngineStepCountsDown := by
  unfold Obligations.EngineStepCountsDown
  intro s hs hnext hp
  obtain ⟨t, h⟩ := hs.dequeue.engineStep_completes
  exact ⟨t, (step_of_engineNext hnext).trans h, engineStep_counts_down (s := s.dequeue) hs.dequeue hp h,
    (engineStep_keeps_inv hs.dequeue h).phase_eq_zero_iff, engineStep_done_of_idle (s := s.dequeue) hp h⟩

/-! ### Runs with no event pending -/

section
variable {s t u : State}

/-- Where the engine is after k steps alone from u: n blocks in all, with k of the steps of u taken. -/
structure RunsAlone (u : State) (k : Nat) (t : State) : Prop where
  inv : EngineInv t
  alone : t.agenda = []
  nblk : t.nblk = u.nblk
  left : stepsLeft t + k = stepsLeft u
  published : t.phase = 0 → t.done = true

theorem RunsAlone.step {k : Nat} (h : RunsAlone u k s) (hp : s.phase ≠ 0) :
    ∃ t, Machine.step s = .next t ∧ RunsAlone u (k + 1) t := by
  obtain ⟨t, ht⟩ := h.inv.engineStep_completes
  have hframe : EngineFrame s t := engineStep_frame ht
  have hdown : stepsLeft t + 1 = stepsLeft s := engineStep_counts_down h.inv hp ht
  have hleft := h.left
  exact ⟨t, (step_empty s h.alone).trans ht, engineStep_keeps_inv h.inv ht, hframe.agenda.trans h.alone,
    hframe.nblk.trans h.nblk, by omega, engineStep_done_of_idle hp ht⟩

/-- Alone, the engine takes every one of its steps left. -/
theorem run_alone (hu : EngineInv u) (halone : u.agenda = []) (hp : u.phase ≠ 0) :
    ∀ k ≤ stepsLeft u, ∃ t : State, core.run k u = .next t ∧ RunsAlone u k t
  | 0, _ => ⟨u, run_zero core u, hu, halone, rfl, rfl, fun h => absurd h hp⟩
  | k + 1, hk => by
    obtain ⟨s, hrun, hs⟩ := run_alone hu halone hp k (by omega)
    have hleft := hs.left
    have hbusy : s.phase ≠ 0 := fun h => by have := stepsLeft_idle h; omega
    obtain ⟨t, hstep, ht⟩ := hs.step hbusy
    exact ⟨t, (run_snoc core k u s hrun).trans hstep, ht⟩

theorem stepsLeft_acceptStart (s : State) : stepsLeft s.acceptStart = 114 * s.acceptStart.nblk.toNat := by
  rw [stepsLeft_load s.acceptStart_phase, State.acceptStart_blk]; rfl

/-- The k-th step of a computation is the (k mod 114)-th of block floor(k / 114). -/
theorem RunsAlone.position {k : Nat} (h : RunsAlone s.acceptStart k t) (hk : k < 114 * s.acceptStart.nblk.toNat) :
    t.phase = phaseOfStep (k % 114) ∧ t.blk.toNat = k / 114 := by
  have hleft := h.left
  rw [stepsLeft_acceptStart] at hleft
  have hbusy : t.phase ≠ 0 := fun hp => by have := stepsLeft_idle hp; omega
  obtain ⟨j, hj, hphase, hsum⟩ := h.inv.position hbusy
  have hblock : t.blk.toNat < t.nblk.toNat := (h.inv.busyInv hbusy).block
  rw [h.nblk] at hsum hblock
  have hk' : k = 114 * t.blk.toNat + j := by omega
  have hmod : k % 114 = j := by omega
  exact ⟨hmod ▸ hphase, by omega⟩

end

/-- Settles O52: the steps left after k steps give the phase and the block (`RunsAlone.position`), and none is left after
the last. -/
theorem computationFollowsFixedSequence : Obligations.ComputationFollowsFixedSequence := by
  unfold Obligations.ComputationFollowsFixedSequence
  intro s u data hp hlen hagenda hstart
  rw [exec_wrCtrlStart_of_legal data hp hlen] at hstart
  cases hstart
  have hrun := run_alone (acceptStart_inv hlen) hagenda (by simp [phaseLoad])
  rw [stepsLeft_acceptStart] at hrun
  refine ⟨fun k hk => ?_, ?_⟩
  · obtain ⟨t, hrun, ht⟩ := hrun k (by omega)
    exact ⟨t, hrun, ht.position hk⟩
  · obtain ⟨t, hrun, ht⟩ := hrun _ (Nat.le_refl _)
    have hleft := ht.left
    rw [stepsLeft_acceptStart] at hleft
    have hidle : t.phase = 0 := ht.inv.phase_eq_zero_iff.2 (by omega)
    exact ⟨t, hrun, hidle, ht.published hidle⟩

end Sys2Proof.Machine

/-! The bytes that LOAD reads (20_memory.md R40): a block is PadByte over the message port, the port is asked only below
mlen, and so the offsets of all blocks are each read once and no other byte matters. -/

namespace Sys2Proof.Machine

/-! ### PadByte and the port -/

theorem padByte_of_lt {n N i : Nat} (read : (i : Nat) → i < n → Byte) (h : i < n) : padByte n N read i = read i h :=
  dif_pos h

/-- PadByte depends on the port's byte at its own index alone, and only where that is below the length. -/
theorem padByte_congr {n n' N i : Nat} {read : (i : Nat) → i < n → Byte} {read' : (i : Nat) → i < n' → Byte}
    (hn : n = n') (h : ∀ (hi : i < n) (hi' : i < n'), read i hi = read' i hi') :
    padByte n N read i = padByte n' N read' i := by
  subst hn
  by_cases hi : i < n
  · rw [padByte_of_lt read hi, padByte_of_lt read' hi, h hi hi]
  · unfold padByte
    rw [dif_neg hi, dif_neg hi]

theorem getElem_currentBlock (s : State) (k : Nat) (h : k < 64) :
    s.currentBlock[k] = padByte s.mlen.toNat s.nblk.toNat s.memRead (64 * s.blk.toNat + k) := by
  rw [State.currentBlock, Vector.getElem_ofFn]

/-! ### The offsets of the blocks -/

theorem mem_loadOffsets_iff (n j i : Nat) : i ∈ loadOffsets n j ↔ i < n ∧ i / 64 = j := by
  simp only [loadOffsets, List.mem_filter, List.mem_map, List.mem_range, decide_eq_true_eq]
  constructor
  · rintro ⟨⟨k, hk, rfl⟩, hi⟩; omega
  · rintro ⟨hi, rfl⟩; exact ⟨⟨i % 64, by omega, by omega⟩, hi⟩

/-- The block indices of N blocks, one block after another. -/
theorem flatten_blockIndices (N : Nat) :
    ((List.range N).map fun j => (List.range 64).map fun k => 64 * j + k).flatten = List.range (64 * N) := by
  induction N with
  | zero => rfl
  | succ N ih =>
    rw [List.range_succ (n := N), List.map_append, List.flatten_append, ih, Nat.mul_succ, List.range_add]
    simp

theorem filter_lt_range {n m : Nat} (h : n ≤ m) : (List.range m).filter (fun i => i < n) = List.range n := by
  obtain ⟨k, rfl⟩ := Nat.exists_eq_add_of_le h
  rw [List.range_add, List.filter_append, List.filter_eq_self.2 (by simp), List.filter_eq_nil_iff.2 (by simp),
    List.append_nil]

theorem flatten_loadOffsets (n : Nat) : ((List.range (blockCount n)).map (loadOffsets n)).flatten = List.range n := by
  have hfits : n ≤ 64 * blockCount n := by have := add_nine_le_blocks n; omega
  have hsplit : (List.range (blockCount n)).map (loadOffsets n) =
      ((List.range (blockCount n)).map fun j => (List.range 64).map fun k => 64 * j + k).map
        (List.filter fun i => i < n) := by
    rw [List.map_map]; rfl
  rw [hsplit, ← List.filter_flatten, flatten_blockIndices, filter_lt_range hfits]

/-! ### The bytes in W -/

theorem bytes32_be32 (b0 b1 b2 b3 : Byte) (j : Nat) (hj : j < 4) :
    bytes32 (be32 b0 b1 b2 b3) j = [b0, b1, b2, b3][j] := by
  have h0 := b0.isLt
  have h1 := b1.isLt
  have h2 := b2.isLt
  have h3 := b3.isLt
  apply BitVec.eq_of_toNat_eq
  rw [bytes32_eq_beDigit, toNat_be32]
  interval_cases j <;> simp [beDigit, beNat] <;> omega

/-- Byte k of a block is byte k mod 4 of the word that LOAD makes of it. -/
theorem bytes32_blockWord (B : Vector Byte 64) (k : Nat) (hk : k < 64) :
    bytes32 (blockWord B (k / 4) (by omega)) (k % 4) = B[k] := by
  have hmod : k % 4 < 4 := Nat.mod_lt _ (by decide)
  rw [blockWord, bytes32_be32 _ _ _ _ _ hmod]
  obtain h | h | h | h : k % 4 = 0 ∨ k % 4 = 1 ∨ k % 4 = 2 ∨ k % 4 = 3 := by omega
  all_goals
    simp only [h, List.getElem_cons_zero, List.getElem_cons_succ]
    congr 1; omega

theorem loadBlock_holds_portByte (s : State) (i : Nat) (h : i ∈ loadOffsets s.mlen.toNat s.blk.toNat) :
    bytes32 (s.loadBlock.W[i % 64 / 4]'(by omega)) (i % 4) = s.portByte i := by
  obtain ⟨hi, hblk⟩ := (mem_loadOffsets_iff _ _ _).1 h
  have hidx : 64 * s.blk.toNat + i % 64 = i := by omega
  have hbyte : i % 4 = i % 64 % 4 := by omega
  simp only [State.loadBlock_W]
  rw [decodeBlock_low _ _ _ (by omega), hbyte, bytes32_blockWord _ _ (Nat.mod_lt _ (by decide)), getElem_currentBlock,
    hidx, padByte_of_lt _ hi, State.memRead]

/-- Settles O42: the blocks' offsets are the numbers below mlen in order, and LOAD leaves the port's byte of each in W. -/
theorem eachOffsetIsReadOnce : Obligations.EachOffsetIsReadOnce := by
  unfold Obligations.EachOffsetIsReadOnce
  refine ⟨fun n => ⟨flatten_loadOffsets n, mem_loadOffsets_iff n⟩, fun n N read i h => padByte_of_lt read h,
    fun n N read read' i hi => padByte_congr rfl fun h _ => absurd h (by omega), getElem_currentBlock,
    fun s hmlen hblk => ⟨s.loadBlock, execLoad_next s hmlen hblk, loadBlock_holds_portByte s⟩⟩

/-! ### What LOAD depends on -/

/-- Two states whose ports read alike at the block's offsets, and whose lengths and block agree, have the same block. -/
theorem currentBlock_congr {s t : State} (hmlen : t.mlen = s.mlen) (hnblk : t.nblk = s.nblk) (hblk : t.blk = s.blk)
    (h : ∀ i ∈ loadOffsets s.mlen.toNat s.blk.toNat, t.portByte i = s.portByte i) : t.currentBlock = s.currentBlock := by
  refine Vector.ext fun k hk => ?_
  rw [getElem_currentBlock, getElem_currentBlock, hnblk, hblk]
  refine padByte_congr (by rw [hmlen]) fun _ hi => h _ ?_
  exact (mem_loadOffsets_iff _ _ _).2 ⟨hi, by omega⟩

/-- Settles O43: the block is the same (`currentBlock_congr`), and LOAD uses the memory for nothing else. -/
theorem loadDependsOnReadOffsetsOnly : Obligations.LoadDependsOnReadOffsetsOnly := by
  unfold Obligations.LoadDependsOnReadOffsetsOnly
  intro s m o t hread h
  obtain ⟨hmlen, hblk, e⟩ | ⟨-, e⟩ | ⟨-, -, e⟩ := execLoad_cases s <;> rw [exec, e] at h <;> cases h
  refine (execLoad_next { s with msg := m, overwritten := o } hmlen hblk).trans ?_
  have hblock : ({ s with msg := m, overwritten := o } : State).currentBlock = s.currentBlock :=
    currentBlock_congr rfl rfl rfl hread
  rw [State.loadBlock, hblock]; rfl

end Sys2Proof.Machine

/-! The schedule's 16-word window (42_schedule.md R99): before round k it holds words k to k + 15 of the schedule, as far
as the schedule has them. -/

namespace Sys2Proof.Machine

/-- The window holds the words of W from k on. -/
def WindowAt (W : Vector Word 64) (k : Nat) (V : Vector Word 16) : Prop :=
  ∀ (j : Nat) (_ : j < 16) (_ : k + j < 64), V[j] = W[k + j]

theorem windowInit_at (B : Vector Byte 64) : WindowAt (schedule B) 0 (windowInit B) := by
  intro j hj hjk
  simp only [Nat.zero_add]
  rw [schedule_low B j hj, windowInit, Vector.getElem_ofFn]

/-- The word computed from the window is the recurrence's, at index k + 16. -/
theorem windowNext_at {B : Vector Byte 64} {k : Nat} {V : Vector Word 16} (h : WindowAt (schedule B) k V) :
    WindowAt (schedule B) (k + 1) (windowNext V) := by
  intro j hj hjk
  obtain hlow | rfl : j < 15 ∨ j = 15 := by omega
  · rw [windowNext_low V j hlow, h (j + 1) (by omega) (by omega)]
    congr 1; omega
  · have hlast : (schedule B)[k + 1 + 15] = scheduleWord (schedule B) (k + 1 + 15) (by omega) hjk :=
      schedule_high B _ (by omega) hjk
    rw [windowNext_last, hlast, scheduleWord, h 14 (by omega) (by omega), h 9 (by omega) (by omega),
      h 1 (by omega) (by omega), h 0 (by omega) (by omega)]
    congr 2

theorem windowRounds_eq (B : Vector Byte 64) (v : WorkingState) (k : Nat) (hk : k ≤ 64) :
    (windowRounds B v k).1 = roundsFirst (schedule B) v k ∧ WindowAt (schedule B) k (windowRounds B v k).2 := by
  induction k with
  | zero => exact ⟨rfl, windowInit_at B⟩
  | succ k ih =>
    obtain ⟨hws, hwindow⟩ := ih (by omega)
    have hword : (windowRounds B v k).2[0] = (schedule B)[k] := hwindow 0 (by omega) hk
    rw [windowRounds_succ B v k hk, roundsFirst_succ _ v k hk, hword, hws]
    exact ⟨rfl, windowNext_at hwindow⟩

/-- Settles O44: round by round the window gives the schedule's word (`windowRounds_eq`). -/
theorem windowedScheduleGivesSameHash : Obligations.WindowedScheduleGivesSameHash := by
  unfold Obligations.WindowedScheduleGivesSameHash
  intro H B
  rw [compressWindow, compress, (windowRounds_eq B (seedWorking H) 64 (Nat.le_refl _)).1]

end Sys2Proof.Machine

/-! The digest (44_output.md R110 to R112): each step of an undisturbed computation keeps `Computing`, the ACCUM of the
last block publishes the digest, and from then on only a START or reset can take it away. -/

namespace Sys2Proof.Machine

section
variable {M : List Byte} {s t : State}

theorem Computing.phase_ne_zero (h : Computing M s) : s.phase ≠ 0 := by
  obtain hp | ⟨hp, -⟩ | ⟨hp, -⟩ | ⟨hp, -⟩ := h.progress <;> rw [hp] <;> decide

/-! ### What a step leaves alone -/

/-- LOAD, EXPAND and ROUND have only the progress within the block to answer for. -/
theorem Computing.withDatapath (h : Computing M s) {W : Vector Word 64} {ws : WorkingState} {t : BitVec 6}
    {phase : BitVec 3} {draws : Nat}
    (hprogress : BlockProgress M { s with W := W, ws := ws, t := t, phase := phase, draws := draws }) :
    Computing M { s with W := W, ws := ws, t := t, phase := phase, draws := draws } :=
  ⟨h.short, h.message, h.blocks, h.block, h.chained, h.not_done, hprogress⟩

/-- LEN, the host's Words, the draws and the agenda are nothing to the computation. -/
theorem Computing.withHostFields (h : Computing M s) (len : Len64) (observed : List Word) (draws : Nat)
    (agenda : List Event) :
    Computing M { s with len := len, observed := observed, draws := draws, agenda := agenda } :=
  ⟨h.short, h.message, h.blocks, h.block, h.chained, h.not_done, h.progress⟩

/-! ### The engine's steps -/

/-- The block LOAD decodes is the message's. -/
theorem Computing.currentBlock_eq (h : Computing M s) : s.currentBlock = messageBlock M s.blk.toNat := by
  obtain ⟨hlen, hbytes⟩ := h.message
  have hblock := h.block
  rw [h.blocks] at hblock
  refine Vector.ext fun k hk => ?_
  have hpad := padByteIsPaddedMessage M (64 * s.blk.toNat + k) (by omega)
  rw [getElem_currentBlock, getElem_messageBlock, hpad, Option.getD_some, h.blocks]
  refine padByte_congr hlen fun hi hi' => ?_
  obtain ⟨hheld, hquiet⟩ := hbytes _ hi'
  rw [State.memRead, State.portByte_quiet s _ hquiet, hheld]

theorem Computing.loadBlock (h : Computing M s) : Computing M s.loadBlock := by
  refine h.withDatapath (.inr (.inl ⟨rfl, Nat.le_refl 16, rfl, fun i hi hlt => ?_⟩))
  have hlow : i < 16 := hlt
  exact (decodeBlock_low _ _ i hlow).trans (by rw [h.currentBlock_eq, schedule_low _ i hlow])

/-- EXPAND makes the words right up to and including W[t]. -/
theorem expandWord_progress {W V : Vector Word 64} {t : Nat} (lo : 16 ≤ t) (hi : t < 64)
    (hV : V[t] = scheduleWord V t lo hi) (h : ∀ (i : Nat) (_ : i < 64), i < t → W[i] = V[i]) (i : Nat) (hi' : i < 64)
    (hle : i ≤ t) : (expandWord W t lo hi)[i] = V[i] := by
  obtain hlt | rfl : i < t ∨ i = t := by omega
  · rw [expandWord_other W t lo hi i hi' (by omega), h i hi' hlt]
  · rw [expandWord_same, hV, scheduleWord_congr W V i lo hi h]

theorem Computing.expandStep (h : Computing M s) (hp : s.phase = 2) (lo : 16 ≤ s.t.toNat) (hws : s.ws = seedWorking s.H)
    (hW : ∀ (i : Nat) (_ : i < 64), i < s.t.toNat → s.W[i] = (schedule (messageBlock M s.blk.toNat))[i]) :
    Computing M (s.expandStep lo) := by
  have hwords : ∀ (i : Nat) (hi : i < 64), i ≤ s.t.toNat →
      (s.expandStep lo).W[i] = (schedule (messageBlock M s.blk.toNat))[i] :=
    expandWord_progress lo s.t.isLt (schedule_high _ _ lo s.t.isLt) hW
  have ht : s.t.toNat < 64 := s.t.isLt
  refine h.withDatapath ?_
  show BlockProgress M (s.expandStep lo)
  obtain hlast | hmore : s.t.toNat = 63 ∨ s.t.toNat < 63 := by omega
  · obtain ⟨hnext, hphase⟩ := expandStep_last lo hlast
    refine .inr (.inr (.inl ⟨hphase, Vector.ext fun i hi => hwords i hi (by omega), ?_⟩))
    rw [hnext]; exact hws
  · obtain ⟨hnext, hphase⟩ := expandStep_continues lo hmore
    exact .inr (.inl ⟨hphase.trans hp, by omega, hws, fun i hi hlt => hwords i hi (by omega)⟩)

theorem Computing.roundStep (h : Computing M s) (hp : s.phase = 3) (hW : s.W = schedule (messageBlock M s.blk.toNat))
    (hws : s.ws = roundsFirst (schedule (messageBlock M s.blk.toNat)) (seedWorking s.H) s.t.toNat) :
    Computing M s.roundStep := by
  have hround : s.roundStep.ws =
      roundsFirst (schedule (messageBlock M s.blk.toNat)) (seedWorking s.H) (s.t.toNat + 1) := by
    rw [roundsFirst_succ _ _ _ s.t.isLt, ← hws]
    simp only [State.roundStep_ws, hW]
  have ht : s.t.toNat < 64 := s.t.isLt
  refine h.withDatapath ?_
  show BlockProgress M s.roundStep
  obtain hlast | hmore : s.t.toNat = 63 ∨ s.t.toNat < 63 := by omega
  · rw [hlast] at hround
    exact .inr (.inr (.inr ⟨(roundStep_last hlast).2, hround⟩))
  · obtain ⟨hnext, hphase⟩ := roundStep_continues hmore
    exact .inr (.inr (.inl ⟨hphase.trans hp, hW, by rw [hnext]; exact hround⟩))

/-- ACCUM completes the compression of the block (43_compression.md R108). -/
theorem Computing.accumStep_hash (h : Computing M s)
    (hws : s.ws = roundsFirst (schedule (messageBlock M s.blk.toNat)) (seedWorking s.H) 64) :
    s.accumStep.H = hashAfter M (s.blk.toNat + 1) := by
  rw [State.accumStep_H, hws, h.chained, hashAfter, compress]

theorem Computing.accumStep (h : Computing M s)
    (hws : s.ws = roundsFirst (schedule (messageBlock M s.blk.toNat)) (seedWorking s.H) 64) :
    Computing M s.accumStep ∨ Published M s.accumStep := by
  have hblock : s.blk.toNat < s.nblk.toNat := h.block
  have hhash : s.accumStep.H = hashAfter M (s.blk.toNat + 1) := h.accumStep_hash hws
  by_cases hlast : s.blk.toNat + 1 = s.nblk.toNat
  · obtain ⟨hphase, hdone⟩ := accumStep_last hlast
    exact .inr ⟨h.short, hphase, hdone, by rw [hhash, hlast, h.blocks]⟩
  · obtain ⟨hphase, hdone⟩ := accumStep_continues hlast
    have hblk : s.accumStep.blk.toNat = s.blk.toNat + 1 := blk_add_one s hblock
    exact .inl ⟨h.short, h.message, h.blocks, by rw [hblk, State.accumStep_nblk]; omega, by rw [hblk, hhash],
      hdone.trans h.not_done, .inl hphase⟩

/-- Each phase's micro-step completes, and takes the block's progress one step on. -/
theorem Computing.engineStep (h : Computing M s) (hstep : engineStep s = .next t) : Computing M t ∨ Published M t := by
  obtain hp | ⟨hp, lo, hws, hW⟩ | ⟨hp, hW, hws⟩ | ⟨hp, hws⟩ := h.progress
  · have hmlen : s.mlen.toNat < 2 ^ 61 := h.message.1 ▸ h.short
    rw [engineStep_load s hp, execLoad_next s hmlen h.block] at hstep
    cases hstep; exact .inl h.loadBlock
  · rw [engineStep_expand s hp, execExpand_next s lo] at hstep
    cases hstep; exact .inl (h.expandStep hp lo hws hW)
  · rw [engineStep_round s hp] at hstep
    cases hstep; exact .inl (h.roundStep hp hW hws)
  · rw [engineStep_accum s hp] at hstep
    cases hstep; exact h.accumStep hws

/-! ### The host while the engine computes -/

/-- While BUSY = 1 a START is ignored, and no other transaction touches the engine. -/
theorem Computing.hostEffect {i : Instr} (h : Computing M s) (hi : i.isHost = true) (heff : Effect s i t) :
    Computing M t := by
  cases heff with
  | read | draw | nothing | setLenLo | setLenHi => exact h.withHostFields ..
  | reject d code hp => exact absurd hp h.phase_ne_zero
  | accept d hp => exact absurd hp h.phase_ne_zero
  | load | expand | round | accum => simp [Instr.isHost] at hi

theorem Computing.storeByte {l : Nat} {b : Byte} (h : Computing M s)
    (hl : ∀ i < M.length, s.params.msgMap.location i ≠ l) : Computing M (s.storeByte l b) := by
  obtain ⟨hlen, hbytes⟩ := h.message
  refine ⟨h.short, ⟨hlen, fun i hi => ?_⟩, h.blocks, h.block, h.chained, h.not_done, h.progress⟩
  obtain ⟨hbyte, hover⟩ := message_storeByte_other s l b i (hl i hi)
  rw [hbyte, hover]
  exact hbytes i hi

theorem Computing.dequeue (h : Computing M s) : Computing M s.dequeue := h.withHostFields ..

theorem Computing.step (h : Computing M s) (hquiet : ∀ e ∈ s.agenda.head?, Undisturbed s.params.msgMap M.length e)
    (hstep : step s = .next t) : Computing M t ∨ Published M t := by
  cases step_cases hstep with
  | engine hnext hstep => exact h.dequeue.engineStep hstep
  | host hnext heff => exact .inl (h.dequeue.hostEffect (decodeHost_isHost _) heff)
  | @store l b rest hagenda => exact .inl (h.dequeue.storeByte (hquiet (.store l b) (by rw [hagenda]; rfl)))
  | reset hagenda => exact (hquiet .reset (by rw [hagenda]; rfl)).elim

end

/-- Settles O54: each agent's step keeps the computation, and the engine's last ACCUM publishes its digest. -/
theorem undisturbedStepKeepsComputing : Obligations.UndisturbedStepKeepsComputing := by
  unfold Obligations.UndisturbedStepKeepsComputing
  exact fun M s t h hquiet hstep => h.step hquiet hstep

/-! ### The beginning -/

theorem acceptStart_computing {M : List Byte} {s : State} (hlen : s.len.toNat = M.length)
    (hmax : M.length ≤ s.params.maxLen.val) (hbytes : ∀ (i : Nat) (h : i < M.length), s.messageByte i = M[i]) :
    Computing M s.acceptStart := by
  have hshort : M.length < 2 ^ 61 := lt_of_le_of_lt hmax s.params.maxLen.isLt
  have hblocks : s.acceptStart.nblk.toNat = blockCount M.length := by
    rw [State.acceptStart_nblk, hlen, blockCount_toNat _ hshort]
  have hfirst : s.acceptStart.blk.toNat < s.acceptStart.nblk.toNat := by rw [hblocks]; exact Nat.succ_pos _
  exact ⟨hshort, ⟨hlen, fun i hi => ⟨hbytes i hi, messageOverwritten_of_nil rfl i⟩⟩, hblocks, hfirst, rfl, rfl,
    .inl rfl⟩

/-- Settles O53: an accepted START latches the length, empties the record of racing bytes and puts IV into H. -/
theorem acceptedStartBeginsComputing : Obligations.AcceptedStartBeginsComputing := by
  unfold Obligations.AcceptedStartBeginsComputing
  intro M s data hp hlen hmax hbytes
  exact ⟨s.acceptStart, exec_wrCtrlStart_of_legal data hp (hlen ▸ hmax), acceptStart_computing hlen hmax hbytes, rfl⟩

/-! ### The end -/

section
variable {M : List Byte} {s t : State}

theorem Published.encodeDigest_eq (h : Published M s) : encodeDigest s.H = sha256 M := by
  obtain ⟨-, -, -, hhash⟩ := h
  rw [hhash, sha256]

theorem Published.dequeue (h : Published M s) : Published M s.dequeue := h

theorem Published.engineStep (h : Published M s) (hstep : engineStep s = .next t) : Published M t := by
  obtain ⟨-, hp, -, -⟩ := id h
  rw [engineStep_idle s hp] at hstep
  cases hstep
  exact h

/-- Of the host's transactions only a START can take a published digest away. -/
theorem Published.hostEffect {i : Instr} (h : Published M s) (hi : i.isHost = true) (heff : Effect s i t) :
    Published M t ∨ ∃ d, i = .wrCtrlStart d := by
  cases heff with
  | read | draw | nothing | setLenLo | setLenHi => exact .inl h
  | reject d | accept d => exact .inr ⟨d, rfl⟩
  | load | expand | round | accum => simp [Instr.isHost] at hi

/-- A platform access that is a START writes CTRL, with DATA[0] = 1. -/
theorem busWord_start {wr : Bool} {n : BitVec 6} {d e : Word}
    (h : decodeHost (hostWord wr n (if wr then d else 0)) = .wrCtrlStart e) : n = 0 ∧ wr = true ∧ d.getLsbD 0 = true := by
  obtain ⟨hkey, hbit⟩ := decodeHost_start _ _ h
  obtain ⟨hrw, hidx⟩ := fields_of_hostKey _ _ hkey
  rw [hostRw_hostWord] at hrw
  rw [hostIdx_hostWord] at hidx
  obtain rfl : wr = true := hrw
  rw [← hostData_bit _ 0 (by decide), hostData_hostWord] at hbit
  exact ⟨hidx, rfl, hbit⟩

/-- The next event is a START transaction, or a platform write that is one. -/
theorem HostNext.start_cases {w : BitVec 39} {d : Word} (hnext : HostNext s w) (h : decodeHost w = .wrCtrlStart d) :
    (∃ w rest, s.agenda = .host w :: rest ∧ hostKey w = 0x40 ∧ w.getLsbD 0 = true) ∨
    (∃ acc rest, s.agenda = .bus acc :: rest ∧ acc.addr = s.params.regBase ∧ acc.write = true ∧
      acc.data.getLsbD 0 = true) := by
  cases hnext with
  | host hagenda => exact .inl ⟨_, _, hagenda, decodeHost_start _ d h⟩
  | bus n hagenda haddr =>
    obtain ⟨rfl, hwrite, hbit⟩ := busWord_start h
    exact .inr ⟨_, _, hagenda, haddr, hwrite, hbit⟩

end

/-- Settles O55: the DIGEST reads and the bytes are those of H, which only a START or reset can change in IDLE. -/
theorem publishedDigestStays : Obligations.PublishedDigestStays := by
  unfold Obligations.PublishedDigestStays
  intro M s t h
  obtain ⟨-, -, hdone, -⟩ := id h
  refine ⟨fun i => execRdDigest_done s i hdone, h.encodeDigest_eq, fun hstep => ?_⟩
  cases step_cases hstep with
  | engine hnext hstep => exact .inl (h.dequeue.engineStep hstep)
  | host hnext heff =>
    obtain hpub | ⟨d, hstart⟩ := h.dequeue.hostEffect (decodeHost_isHost _) heff
    · exact .inl hpub
    · exact .inr (.inr (hnext.start_cases hstart))
  | store hagenda => exact .inl h
  | reset hagenda => exact .inr (.inl ⟨_, hagenda⟩)

/-! ### The whole computation -/

/-- What holds of a computation with no event pending, and after it. -/
def ComputesAlone (M : List Byte) (s : State) : Prop := s.agenda = [] ∧ (Computing M s ∨ Published M s)

theorem ComputesAlone.step {M : List Byte} {s t : State} (h : ComputesAlone M s) (hstep : step s = .next t) :
    ComputesAlone M t := by
  obtain ⟨hagenda, h⟩ := h
  rw [step_empty s hagenda] at hstep
  exact ⟨(engineStep_frame hstep).agenda.trans hagenda, h.elim (·.engineStep hstep) fun h => .inr (h.engineStep hstep)⟩

/-- What every step keeps, every run keeps. -/
theorem run_keeps (C : Host.Core) {P : C.State → Prop} (hP : ∀ {s t}, P s → C.step s = .next t → P t) (k : Nat)
    {s t : C.State} (hs : P s) (hrun : C.run k s = .next t) : P t := by
  induction k generalizing s with
  | zero => rw [run_zero] at hrun; cases hrun; exact hs
  | succ k ih =>
    unfold Host.Core.run at hrun
    split at hrun
    · next s' hstep => exact ih (hP hs hstep) hrun
    · cases hrun
    · cases hrun

/-- Settles O56: the START is accepted, the run takes the 114 steps of each block (`run_alone`), and the engine, IDLE
again, is not computing M's digest any more but has published it. -/
theorem engineComputesSha256 : Obligations.EngineComputesSha256 := by
  unfold Obligations.EngineComputesSha256
  intro M s hp hlen hmax hbytes hagenda
  have hlegal : s.len.toNat ≤ s.params.maxLen.val := hlen ▸ hmax
  have hstart : step s = .next s.dequeue.acceptStart := by
    rw [step_of_agenda hagenda]
    exact exec_wrCtrlStart_of_legal (s := s.dequeue) 1 hp hlegal
  have halone : s.dequeue.acceptStart.agenda = [] := by simp [State.dequeue, hagenda]
  have hcomputing : Computing M s.dequeue.acceptStart := acceptStart_computing hlen hmax hbytes
  have hinv : EngineInv s.dequeue.acceptStart := acceptStart_inv hlegal
  have hleft : stepsLeft s.dequeue.acceptStart = 114 * blockCount M.length := by
    rw [stepsLeft_acceptStart, hcomputing.blocks]
  obtain ⟨t, hrun, ht⟩ := run_alone hinv halone hcomputing.phase_ne_zero _ (le_of_eq hleft.symm)
  have hidle : t.phase = 0 := ht.inv.phase_eq_zero_iff.2 (by have := ht.left; omega)
  obtain ⟨-, hbusy | hpub⟩ := run_keeps core (P := ComputesAlone M) ComputesAlone.step _ ⟨halone, .inl hcomputing⟩ hrun
  · exact absurd hidle hbusy.phase_ne_zero
  · refine ⟨t, ?_, hidle, ht.published hidle, hpub.encodeDigest_eq⟩
    rw [Nat.add_comm]
    exact (run_cons core _ s _ hstart).trans hrun

end Sys2Proof.Machine

/-! A platform of several engines (60_exceptions.md R152, 00_scope.md R6): a step of one engine puts its next state in
the place of its state, with the same parameters and the same source of free values. -/

namespace Sys2Proof.Machine

/-! ### One engine's step -/

theorem stepAt_next {p : Platform} {k : Nat} {s t : State} (hs : p[k]? = some s) (h : step s = .next t) :
    p.stepAt k = some (.next (p.set k t)) := by
  simp only [Platform.stepAt, hs, h]

theorem stepAt_cases {p p' : Platform} {k : Nat} (h : p.stepAt k = some (.next p')) :
    ∃ s t, p[k]? = some s ∧ step s = .next t ∧ p' = p.set k t := by
  unfold Platform.stepAt at h
  split at h
  · cases h
  · next s hs =>
    split at h
    · next t ht => cases h; exact ⟨s, t, hs, ht, rfl⟩
    · cases h
    · cases h

/-- Settles O57: the step sets entry k of the list and no other. -/
theorem engineInstancesAreIndependent : Obligations.EngineInstancesAreIndependent := by
  unfold Obligations.EngineInstancesAreIndependent
  intro p k s t hs h
  obtain ⟨hk, -⟩ := List.getElem?_eq_some_iff.1 hs
  exact ⟨p.set k t, stepAt_next hs h, List.getElem?_set_self hk, List.length_set,
    fun j hj => List.getElem?_set_ne hj.symm⟩

/-! ### Parameters and sources -/

theorem Effect.params_source {s t : State} {i : Instr} (h : Effect s i t) :
    t.params = s.params ∧ t.source = s.source := by
  cases h <;> exact ⟨rfl, rfl⟩

/-- No step writes the parameters or moves to another source of free values. -/
theorem step_params_source {s t : State} (h : step s = .next t) : t.params = s.params ∧ t.source = s.source := by
  cases step_cases h with
  | engine hnext h => exact ⟨(engineStep_frame h).params, (engineStep_frame h).source⟩
  | host hnext h => exact h.params_source
  | store h => exact ⟨rfl, rfl⟩
  | reset h => exact ⟨rfl, rfl⟩

/-- Replacing an entry by one with the same image leaves the list of images as it was. -/
theorem map_set_of_eq {α β : Type} (f : α → β) {l : List α} {k : Nat} {a b : α} (ha : l[k]? = some a) (h : f b = f a) :
    (l.set k b).map f = l.map f := by
  obtain ⟨hk, rfl⟩ := List.getElem?_eq_some_iff.1 ha
  rw [List.map_set, h, ← List.getElem_map f (h := by simpa using hk), List.set_getElem_self]

/-- What legality speaks of is the list of the parameters and that of the sources. -/
theorem Platform.Legal.of_maps {p p' : Platform} (h : p.Legal)
    (hparams : (p'.map fun s => s.params) = p.map fun s => s.params)
    (hsource : (p'.map fun s => s.source) = p.map fun s => s.source) : p'.Legal where
  numEngines := by
    have hlen : p'.length = p.length := by simpa using congrArg List.length hparams
    exact hlen ▸ h.numEngines
  params s hs := by
    have hmem : s.params ∈ p'.map fun s => s.params := List.mem_map_of_mem hs
    rw [hparams] at hmem
    obtain ⟨s', hs', heq⟩ := List.mem_map.1 hmem
    exact heq ▸ h.params s' hs'
  sources := hsource ▸ h.sources

/-! ### After power-on -/

theorem map_powerOn {β : Type} (n : NumEngines) (params : Nat → Params) (f : State → β) :
    (Platform.powerOn n params).map f = (List.range n.val).map fun k => f (instanceAtReset params k) := by
  rw [Platform.powerOn, List.map_map]; rfl

theorem length_powerOn (n : NumEngines) (params : Nat → Params) : (Platform.powerOn n params).length = n.val := by
  simp [Platform.powerOn]

theorem instanceAtReset_inv (params : Nat → Params) (k : Nat) : EngineInv (instanceAtReset params k) :=
  engineInv_of_idle_ok rfl rfl rfl

theorem mem_powerOn {n : NumEngines} {params : Nat → Params} {s : State} (h : s ∈ Platform.powerOn n params) :
    ∃ k < n.val, s = instanceAtReset params k := by
  obtain ⟨k, hk, rfl⟩ := List.mem_map.1 h
  exact ⟨k, List.mem_range.1 hk, rfl⟩

theorem powerOn_legal {n : NumEngines} {params : Nat → Params} (h : ∀ k < n.val, (params k).Legal) :
    (Platform.powerOn n params).Legal where
  numEngines := by rw [length_powerOn]; exact n.property
  params s hs := by
    obtain ⟨k, hk, rfl⟩ := mem_powerOn hs
    exact h k hk
  sources := by
    rw [map_powerOn]
    exact (List.map_id _).symm ▸ List.nodup_range

/-- Settles O59: each engine starts in the reset state with its own parameters and source, and a step of one changes
neither list. -/
theorem platformStaysLegal : Obligations.PlatformStaysLegal := by
  unfold Obligations.PlatformStaysLegal
  refine ⟨fun n params h => ⟨powerOn_legal h, length_powerOn n params, fun k hk => ?_, fun s hs => ?_⟩,
    fun p p' k hlegal hstep => ?_⟩
  · exact ⟨instanceAtReset params k, by simp [Platform.powerOn, hk], rfl⟩
  · obtain ⟨k, -, rfl⟩ := mem_powerOn hs
    exact ⟨instanceAtReset_inv params k, rfl⟩
  · obtain ⟨s, t, hs, ht, rfl⟩ := stepAt_cases hstep
    obtain ⟨hparams, hsource⟩ := step_params_source ht
    have hmap := map_set_of_eq (fun s : State => s.params) hs hparams
    exact ⟨hlegal.of_maps hmap (map_set_of_eq (fun s : State => s.source) hs hsource), List.length_set, hmap⟩

end Sys2Proof.Machine

/-! The assembler and the pseudo-instructions of 30_encoding.md R64, R65. -/

namespace Sys2Proof.Machine

/-- LEN is its two halves. -/
theorem len_eq_of_halves {s t : State} (hlo : s.lenLo = t.lenLo) (hhi : s.lenHi = t.lenHi) : s.len = t.len := by
  have hlo' := congrArg BitVec.toNat hlo
  have hhi' := congrArg BitVec.toNat hhi
  rw [toNat_lenLo, toNat_lenLo] at hlo'
  rw [toNat_lenHi, toNat_lenHi] at hhi'
  exact BitVec.eq_of_toNat_eq (by omega)

/-- Writing both halves leaves nothing of what LEN held. -/
theorem setLenHi_setLenLo (s : State) (n : Len64) :
    (s.setLenLo (n.extractLsb' 0 32)).setLenHi (n.extractLsb' 32 32) = { s with len := n } := by
  have hlen : ((s.setLenLo (n.extractLsb' 0 32)).setLenHi (n.extractLsb' 32 32)).len = n :=
    len_eq_of_halves (t := { s with len := n }) (by rw [lenLo_setLenHi, lenLo_setLenLo, State.lenLo])
      (by rw [lenHi_setLenHi, State.lenHi])
  calc (s.setLenLo (n.extractLsb' 0 32)).setLenHi (n.extractLsb' 32 32)
    _ = { s with len := ((s.setLenLo (n.extractLsb' 0 32)).setLenHi (n.extractLsb' 32 32)).len } := rfl
    _ = { s with len := n } := by rw [hlen]

theorem hostStep_assembleLine_wr (r : Reg) (v : Word) (s : State) :
    hostStep (assembleLine (.wr r v)) s = exec (decodeWrite (regIndex r) v) s := by
  rw [hostStep_eq, assembleLine, decodeHost_write]

/-- The two transactions of SETLEN n. -/
theorem run_setLen (s : State) (n : Len64) (rest : List Event) (h : s.agenda = lineEvents (asmSetLen n) ++ rest) :
    core.run 2 s = .next { s with len := n, agenda := rest } := by
  have hlo : step s = .next (s.dequeue.setLenLo (n.extractLsb' 0 32)) :=
    (step_of_agenda h).trans (hostStep_assembleLine_wr .lenLo _ _)
  have hagenda : (s.dequeue.setLenLo (n.extractLsb' 0 32)).agenda =
      .host (assembleLine (.wr .lenHi (n.extractLsb' 32 32))) :: rest := congrArg List.tail h
  have hhi : step (s.dequeue.setLenLo (n.extractLsb' 0 32)) =
      .next ((s.dequeue.setLenLo (n.extractLsb' 0 32)).dequeue.setLenHi (n.extractLsb' 32 32)) :=
    (step_of_agenda hagenda).trans (hostStep_assembleLine_wr .lenHi _ _)
  have hq : (s.dequeue.setLenLo (n.extractLsb' 0 32)).dequeue = { s with agenda := rest }.setLenLo (n.extractLsb' 0 32) := by
    rw [dequeue_of_agenda hagenda]; rfl
  rw [hq, setLenHi_setLenLo] at hhi
  exact (run_cons core 1 s _ hlo).trans ((run_cons core 0 _ _ hhi).trans (run_zero core _))

/-- Settles O23: the lines are the encodings of R58, SETLEN sets LEN half by half, and the tests of WAIT and CHECK look at
the bits of `statusBits`. -/
theorem pseudoInstructionsExpand : Obligations.PseudoInstructionsExpand := by
  unfold Obligations.PseudoInstructionsExpand
  refine ⟨fun r v _ => ⟨decode_encode_write _ _, decode_encode_read _ _⟩, by decide, by decide, by decide, by decide,
    fun _ => rfl, rfl, fun i => ?_, run_setLen, fun s => ?_⟩
  · exact (decode_encode_read _ _).trans (by rw [regIndex, decodeRead_digest])
  · obtain ⟨hbusy, -, -, -, -, -, hcheck⟩ := statusBits s.errCode s.err s.done s.busy
    exact ⟨hbusy, beq_iff_eq.trans hcheck⟩

end Sys2Proof.Machine
